-- ==== Sys2Proof/Word.lean ====
section
/-! DEFINITION. The byte, byte-sequence and word types of spec/00_scope.md rule R10. -/

namespace Sys2Proof

/-- A byte, an unsigned value 0..255 (R10). -/
abbrev Byte := BitVec 8

/-- A finite sequence of bytes (R10). -/
abbrev Bytes := List Byte

/-- A u16 (R10). -/
abbrev Half := BitVec 16

/-- A u32 (R10). -/
abbrev Word := BitVec 32

end Sys2Proof
end

