-- ==== Sys2Proof/Syntax.lean ====
section
/-! DEFINITION. The commands of spec/opcode_table.json and their operands (spec/10_state.md R22, spec/30_encoding.md R62). -/

namespace Sys2Proof

/-- A HardwareAddress: exactly 6 bytes, `b0` first (R22, R13). -/
structure HardwareAddress where
  b0 : Byte
  b1 : Byte
  b2 : Byte
  b3 : Byte
  b4 : Byte
  b5 : Byte
deriving DecidableEq, Repr

/-- A ProtocolId: exactly 2 bytes, `hi` first; `hi` is the most significant byte of the EtherType (R22, R41). -/
structure ProtocolId where
  hi : Byte
  lo : Byte
deriving DecidableEq, Repr

/-- The two command codes' names (R62). -/
inductive Command where
  | build
  | send
deriving DecidableEq, Repr

/-- A request as the latch holds it (R22): the constructor is `x[OP]`, the arguments are `x[DST]`, `x[SRC]`, `x[PROTO]` and
`x[PAYLOAD]`. A payload may have any length (R22); what a descriptor can carry is `Instr.wf`. -/
inductive Instr where
  /-- BUILD, opcode 0x01 (R80). -/
  | build (dst src : HardwareAddress) (proto : ProtocolId) (payload : Bytes)
  /-- SEND, opcode 0x02 (R120). -/
  | send (dst src : HardwareAddress) (proto : ProtocolId) (payload : Bytes)
deriving DecidableEq, Repr

end Sys2Proof
end

