-- ==== Sys2Proof/Machine/ByteOrder.lean ====
section
/-! DEFINITION. Byte sequences, slices and byte orders (spec/00_scope.md R10, spec/20_memory.md R41 to R43). -/

namespace Sys2Proof

/-- `zeros(n)` (R10). -/
def zeros (n : Nat) : Bytes := List.replicate n 0#8

/-- `s[a..b)` (R10). -/
def slice (s : Bytes) (a b : Nat) : Bytes := (s.drop a).take (b - a)

/-- `le32(v)`, least significant byte first (R10). -/
def le32 (v : Word) : Bytes :=
  [v.extractLsb' 0 8, v.extractLsb' 8 8, v.extractLsb' 16 8, v.extractLsb' 24 8]

/-- `be16(v)`, most significant byte first (R10). -/
def be16 (v : Half) : Bytes := [v.extractLsb' 8 8, v.extractLsb' 0 8]

/-- The big-endian u16 of two bytes (R43), unsigned and unscaled (R63). -/
def fromBe16 (hi lo : Byte) : Nat := hi.toNat * 256 + lo.toNat

/-- The little-endian u32 of four bytes, first byte least significant (R43, R106). -/
def fromLe32 (b0 b1 b2 b3 : Byte) : Word :=
  b0.setWidth 32 + b1.setWidth 32 <<< 8 + b2.setWidth 32 <<< 16 + b3.setWidth 32 <<< 24

/-- The big-endian u16 at an offset of a byte sequence (R43). Every caller has both bytes there. -/
def readBe16 (s : Bytes) (off : Nat) : Nat := fromBe16 (s.getD off 0) (s.getD (off + 1) 0)

/-- The little-endian u32 at an offset of a byte sequence (R43). Every caller has the four bytes there. -/
def readLe32 (s : Bytes) (off : Nat) : Word :=
  fromLe32 (s.getD off 0) (s.getD (off + 1) 0) (s.getD (off + 2) 0) (s.getD (off + 3) 0)

/-- An address's six bytes, first byte first (R22, R41). -/
def HardwareAddress.toBytes (a : HardwareAddress) : Bytes := [a.b0, a.b1, a.b2, a.b3, a.b4, a.b5]

/-- A protocol id's two bytes, most significant first (R22, R41). -/
def ProtocolId.toBytes (p : ProtocolId) : Bytes := [p.hi, p.lo]

end Sys2Proof
end

