-- ==== Sys2Proof/Machine/Operands.lean ====
section
/-! DEFINITION. The operand forms: the fields `x[F]` of a request (spec/00_scope.md R11, spec/10_state.md R22) and their
extraction from a descriptor (spec/30_encoding.md R60, R63). -/

namespace Sys2Proof

/-- `x[OP]` (R22). -/
def Instr.op : Instr → Command
  | .build _ _ _ _ => .build
  | .send _ _ _ _ => .send

/-- `x[DST]` (R22). -/
def Instr.dst : Instr → HardwareAddress
  | .build d _ _ _ => d
  | .send d _ _ _ => d

/-- `x[SRC]` (R22). -/
def Instr.src : Instr → HardwareAddress
  | .build _ s _ _ => s
  | .send _ s _ _ => s

/-- `x[PROTO]` (R22). -/
def Instr.proto : Instr → ProtocolId
  | .build _ _ p _ => p
  | .send _ _ p _ => p

/-- `x[PAYLOAD]` (R22); also the byte space PAY (R40). -/
def Instr.payload : Instr → Bytes
  | .build _ _ _ b => b
  | .send _ _ _ b => b

/-- The request of a command and its four operands. -/
def Instr.ofCommand (c : Command) (dst src : HardwareAddress) (proto : ProtocolId) (payload : Bytes) : Instr :=
  match c with
  | .build => .build dst src proto payload
  | .send => .send dst src proto payload

/-- The command code of `d[0]` (R62). -/
def Command.code : Command → Byte
  | .build => 0x01#8
  | .send => 0x02#8

/-- The command a code names, or none for a reserved code (R62). -/
def Command.ofCode (b : Byte) : Option Command :=
  if b = 0x01#8 then some .build else if b = 0x02#8 then some .send else none

/-- Six descriptor bytes from `off`, as given (R63). -/
def addressAt (d : Bytes) (off : Nat) : HardwareAddress :=
  ⟨d.getD off 0, d.getD (off + 1) 0, d.getD (off + 2) 0, d.getD (off + 3) 0, d.getD (off + 4) 0, d.getD (off + 5) 0⟩

/-- `x[DST] <- d[1..7)` (R63). -/
def dstOf (d : Bytes) : HardwareAddress := addressAt d 1

/-- `x[SRC] <- d[7..13)` (R63). -/
def srcOf (d : Bytes) : HardwareAddress := addressAt d 7

/-- `x[PROTO] <- d[13..15)` (R63). -/
def protoOf (d : Bytes) : ProtocolId := ⟨d.getD 13 0, d.getD 14 0⟩

/-- `PLEN`, big-endian at `d[15..17)` (R63). -/
def plenOf (d : Bytes) : Nat := readBe16 d 15

/-- `x[PAYLOAD] <- d[17..17+PLEN)` (R63). -/
def payloadOf (d : Bytes) : Bytes := slice d 17 (17 + plenOf d)

end Sys2Proof
end

