-- ==== Sys2Proof/Machine/Params.lean ====
section
/-! DEFINITION. The fixed sizes and CRC parameters of spec/00_scope.md rules R6, R7, R8 and R9. -/

namespace Sys2Proof

/-- `ADDR_LEN` (R6). -/
def addrLen : Nat := 6
/-- `PROTO_LEN` (R6). -/
def protoLen : Nat := 2
/-- `HDR_LEN = 2*ADDR_LEN + PROTO_LEN` (R6; 14, not 18: 90_conflicts.md C1). -/
def hdrLen : Nat := 14
/-- `MIN_DATA` (R6). -/
def minData : Nat := 46
/-- `MAX_PAYLOAD` (R6). -/
def maxPayload : Nat := 1500
/-- `FCS_LEN` (R6). -/
def fcsLen : Nat := 4
/-- `MIN_FRAME` (R7). -/
def minFrame : Nat := 64
/-- `MAX_FRAME` (R7). -/
def maxFrame : Nat := 1518
/-- The largest payload a descriptor's 16-bit `PLEN` can carry (R9 `PLEN_BITS`, R63). -/
def maxPlen : Nat := 65535
/-- The fixed part of a descriptor: OP, DST, SRC, PROTO, PLEN (R60, R61). -/
def fixedPart : Nat := 17

/-- The reflected CRC-32 polynomial (R8). PRESUMED: the spec takes the CRC's numbers from general knowledge (log 1). -/
def crcPoly : Word := 0xEDB88320#32
/-- The CRC register's initial value (R8, log 1). -/
def crcInit : Word := 0xFFFFFFFF#32
/-- The CRC's final XOR (R8, log 1). -/
def crcXorOut : Word := 0xFFFFFFFF#32
/-- The CRC of a whole frame, its FCS included (R107, log 1). -/
def crcResidue : Word := 0x2144DF1C#32

end Sys2Proof
end

