-- ==== Sys2Proof/WellFormed.lean ====
section
/-! DEFINITION. Which requests a descriptor can carry (spec/30_encoding.md R63). The addresses and the protocol id need no check:
their types have the right lengths, and any byte values are accepted (spec/10_state.md R22). -/

namespace Sys2Proof

/-- The payload's length fits the 16-bit PLEN (R63: "A request descriptor can carry 0 <= L <= 65535", R22). -/
def Instr.wf (i : Instr) : Bool := decide (i.payload.length ≤ maxPlen)

end Sys2Proof
end

