-- ==== Sys2Proof/Decode.lean ====
section
/-! DEFINITION. The decoder of request descriptors, total on any bytes, and the encoder (spec/30_encoding.md R60 to R65). -/

namespace Sys2Proof

/-- Why the decoder refuses a byte string (R65). -/
inductive DecodeRefusal where
  /-- `len(d) = 0`. -/
  | empty
  /-- `d[0]` names no command. -/
  | reservedOpcode (op : Byte)
  /-- `len(d) < 17`. -/
  | shortDescriptor
  /-- `len(d) != 17 + PLEN`. -/
  | lengthMismatch
deriving DecidableEq, Repr

/-- The decoder (R65): the first matching row wins. -/
def decode (d : Bytes) : Except DecodeRefusal Instr :=
  match d with
  | [] => .error .empty
  | op :: _ =>
    match Command.ofCode op with
    | none => .error (.reservedOpcode op)
    | some c =>
      if d.length < fixedPart then .error .shortDescriptor
      else if d.length ≠ fixedPart + plenOf d then .error .lengthMismatch
      else .ok (Instr.ofCommand c (dstOf d) (srcOf d) (protoOf d) (payloadOf d))

/-- The descriptor of a well-formed request (R60). Of a longer payload, which no descriptor carries (R63), the bytes it gives are no
descriptor, and no request is presented with them (log 21). -/
def encode (i : Instr) : Bytes :=
  i.op.code :: (i.dst.toBytes ++ i.src.toBytes ++ i.proto.toBytes ++ be16 (BitVec.ofNat 16 i.payload.length) ++ i.payload)

/-- The descriptor whose bytes are the bits of `w` below `nbits`, byte 0 in the least significant bits, every higher bit 0.
Its length, which the transport knows (R60), is what its own PLEN asks for, or the bytes of `nbits` if those are more.
DESIGN CHOICE (log 16). -/
def layoutWord (nbits w : Nat) : Bytes :=
  let v := w % 2 ^ nbits
  let byte := fun i => BitVec.ofNat 8 (v >>> (8 * i))
  (List.range (max ((nbits + 7) / 8) (fixedPart + fromBe16 (byte 15) (byte 16)))).map byte

/-- The request the decoder reads from a descriptor laid out from `w` (the fixed name of the host's table check). -/
def decodeTableWord (nbits w : Nat) : Option Instr :=
  match decode (layoutWord nbits w) with
  | .ok i => some i
  | .error _ => none

end Sys2Proof
end

