-- ==== Sys2Proof/Machine/Crc.lean ====
section
/-! DEFINITION. CRC-32 (spec/41_crc32_framer.md R101), its table-driven form (R102) and the byte-serial accumulator (R103). The
numbers are the spec's own identification of the CRC the source names (R100, log 1). -/

namespace Sys2Proof

/-- One bit of R101's inner loop. -/
def crcBit (r : Word) : Word := if r.getLsbD 0 then (r >>> 1) ^^^ crcPoly else r >>> 1

/-- `n` bits of R101's inner loop. -/
def crcBits : Nat → Word → Word
  | 0, r => r
  | n + 1, r => crcBits n (crcBit r)

/-- One pass of R101's loop body, with byte `b`; also one update of the accumulator of R103. -/
def crcByte (r : Word) (b : Byte) : Word := crcBits 8 (r ^^^ b.setWidth 32)

/-- The register after the bytes of a sequence, in order. -/
def crcBytes (r : Word) (s : Bytes) : Word := s.foldl crcByte r

/-- `crc32(s)` (R101). -/
def crc32 (s : Bytes) : Word := crcBytes crcInit s ^^^ crcXorOut

/-- `T[v]` (R102). -/
def crcTable (v : Byte) : Word := crcBits 8 (v.setWidth 32)

/-- One byte of the table-driven form (R102). -/
def crcTableByte (r : Word) (b : Byte) : Word := (r >>> 8) ^^^ crcTable ((r ^^^ b.setWidth 32).setWidth 8)

/-- The table-driven form of `crc32` (R102); the model does not use it. -/
def crc32ByTable (s : Bytes) : Word := s.foldl crcTableByte crcInit ^^^ crcXorOut

/-- The accumulator of R103 after `v` is appended to a body that so far is `before`: it starts at `0xFFFFFFFF` with the
transaction's first byte and follows every byte; one that holds no value later on keeps none. -/
def crcFollow (before : Bytes) (acc : Option Word) (v : Bytes) : Option Word :=
  match before with
  | [] => some (crcBytes crcInit v)
  | _ :: _ => acc.map (crcBytes · v)

end Sys2Proof
end

