-- ==== Sys2Proof/Config.lean ====
section
/-! DEFINITION. The OPEN parameters of spec/00_scope.md rule R9. They have no body: no proof can see a value of one, nor, of
the type TxError, which values it has, how many, or whether any.
NUM_CHANNELS is not here: it is an argument of the predicate `Machine.State.withinChannels` (log 2). -/

namespace Sys2Proof

/-- Which numbers stand for an error kind of the LinkTransmitter. OPEN with the type `TxError` (R9). DESIGN CHOICE, safe
(log 3). -/
opaque Config.isTxError : Nat → Bool

/-- An error kind of the LinkTransmitter. `TxError` is an OPEN type (R9, R121): the block passes a value on and never looks
inside. So a value is only an identity, a number among those of the transmitter's kinds; since `Config.isTxError` has no body, no
proof can name a value, or show that there is one, or how many there are. DESIGN CHOICE, safe (log 3). -/
structure TxError where
  id : Nat
  isKind : Config.isTxError id = true
deriving DecidableEq, Repr

/-- `encode_tx_error`, an OPEN function (R9, R64). DESIGN CHOICE, safe (log 4). -/
opaque Config.encodeTxError : TxError → Bytes

/-- `TX_LINK_LIMIT`, the largest frame the link accepts, or none; OPEN (R9). The block never reads it (R120: a frame over it
is still handed over); only the environment assumption `Machine.State.linkLimitHonoured` does. DESIGN CHOICE, safe (log 5). -/
opaque Config.txLinkLimit : Option Nat

end Sys2Proof
end

