-- ==== Sys2Proof/Machine/State.lean ====
section
/-! DEFINITION. The state of the block and of what its environment observes (spec/10_state.md), as plain data, and its value
right after reset (R33). INVENTORY.md's State heading lists every piece. -/

namespace Sys2Proof.Machine

/-- A channel's phase (R21, R25). -/
inductive Phase where
  | idle
  | busy
  /-- WAIT_TX, with the number in the transmit log of the call that is out. The number is the model's own: it tells the
  answer to this call from a late answer to an abandoned one (R160). DEDUCED (log 11). -/
  | waitTx (call : Nat)
deriving DecidableEq, Repr

/-- What a channel holds: exactly the three things of R21, and the internal CRC accumulator of R31 and R103. -/
structure Channel where
  phase : Phase
  /-- The request latch (R22); none: it holds no value (R33). -/
  latch : Option Instr
  /-- The output frame buffer FBUF (R24). -/
  fbuf : Bytes
  /-- The accumulator `A` of R103; none: it holds no value (R33). Not observable (R31). -/
  crcAcc : Option Word
deriving DecidableEq, Repr

/-- The transmitter's answer to one call (R121); no answer at all is the absence of an answer event. -/
inductive TxAnswer where
  | ack
  | failure (e : TxError)
deriving DecidableEq, Repr

/-- The two error kinds (R141, R142). -/
inductive ErrorKind where
  | oversizePayload
  | transmitFailure (e : TxError)
deriving DecidableEq, Repr

/-- A transaction's one outcome (R64, R145). Its bytes are `Response.encode`. -/
inductive Response where
  /-- OK of a BUILD. -/
  | frame (f : Bytes)
  /-- OK of a SEND. -/
  | ack
  | error (k : ErrorKind)
deriving DecidableEq, Repr

/-- One channel together with what its requester holds and sees. -/
structure Port where
  chan : Channel
  /-- Descriptors presented and not yet taken up, oldest first (R25: such a request "waits until the channel is IDLE";
  92 D8). The requester's, not the block's (log 8). -/
  waiting : List Bytes
  /-- The responses the channel has produced, oldest first (R32). -/
  responses : List Response
deriving DecidableEq, Repr

/-- One entry of the transmit log (R32): which channel called, with which frame, and the answer if one was taken. -/
structure TxCall where
  channel : Nat
  frame : Bytes
  answer : Option TxAnswer
deriving DecidableEq, Repr

/-- One event of the block's environment or schedule (log 6). -/
inductive Event where
  /-- A requester presents a descriptor on a channel (R25 T1's event). -/
  | present (channel : Nat) (d : Bytes)
  /-- The schedule lets a channel make its next transition (R25 T1 to T4). -/
  | go (channel : Nat)
  /-- The transmitter answers a call, numbered as the transmit log numbers it (R25 T5, T6). -/
  | answer (call : Nat) (a : TxAnswer)
  /-- Reset (R160, T7). -/
  | reset
deriving DecidableEq, Repr

structure State where
  /-- The ports of channels 0, 1, ...; a channel past the end of the list is at `Port.reset` (log 2). -/
  ports : List Port
  /-- The channel whose transaction the current step carries out; the model's own (log 15). -/
  cur : Nat
  /-- The transmit log (R32), oldest call first. -/
  txLog : List TxCall
  /-- The run's refusal mark (R65). -/
  refusalMark : Bool
  /-- The events still to come, next first; the model's own (log 6). -/
  inputs : List Event
deriving DecidableEq, Repr

/-- Why the machine stops. No run from reset whose script answers only calls that were made reaches any of these. -/
inductive Fault where
  /-- Raised by a BUSY channel's move when its latch holds no value (92 D21, R33). Safe. -/
  | latchEmpty
  /-- Raised by `memRead` outside a space (R40: "requires a + n <= L"). Safe. -/
  | readOutOfRange
  /-- Raised by `memWrite` away from FBUF's end or with a wrong length (R45's `require`). Safe. -/
  | writeNotAppend
  /-- Raised by `memWrite` to PAY, which nothing may write (R40, R53). Safe. -/
  | payReadOnly
  /-- Raised by an answer event that names a call not in the transmit log: no behaviour of the hardware (log 17). Safe. -/
  | noSuchCall
deriving DecidableEq, Repr

/-- Why the model refuses. Every command is modelled, and a refused descriptor is not a refusal of the machine: it sets the
refusal mark and the run goes on (R65). -/
inductive Refusal where
  /-- Raised by `exec` for an instruction without a meaning; no arm does. Safe. -/
  | notModelled (mnemonic : String)
deriving DecidableEq, Repr

/-- A channel after reset (R33). -/
def Channel.reset : Channel := { phase := .idle, latch := none, fbuf := [], crcAcc := none }

/-- A port nothing has used yet (R33; log 8 for the waiting list). -/
def Port.reset : Port := { chan := Channel.reset, waiting := [], responses := [] }

/-- The block right after reset (R33, R161), with an empty transmit log (95_test_vectors.md section 6), nothing presented, the
refusal mark not set and no event scripted (logs 6, 8, 10, 15). -/
def State.reset : State := { ports := [], cur := 0, txLog := [], refusalMark := false, inputs := [] }

end Sys2Proof.Machine
end

