-- ==== Sys2Proof/Machine/Ops.lean ====
section
/-! DEFINITION. The named operations: reading and replacing a channel's port, MemRead and MemWrite over the two byte spaces
(spec/20_memory.md R40, R45), ending a transaction with a response or an error (spec/60_exceptions.md R140, R147), handing a
frame to the transmitter (spec/42_transmit.md R121, R127), and reset (spec/70_reset_and_hazards.md R160). -/

namespace Sys2Proof.Machine

/-! ### Ports -/

/-- The port of channel `c` in a list of ports; past the end, an unused port (log 2). -/
def portAt : List Port → Nat → Port
  | [], _ => Port.reset
  | p :: _, 0 => p
  | _ :: ps, c + 1 => portAt ps c

/-- The list with channel `c`'s port replaced, padded with unused ports where it is too short. -/
def setPortAt : List Port → Nat → Port → List Port
  | [], 0, p => [p]
  | [], c + 1, p => Port.reset :: setPortAt [] c p
  | _ :: ps, 0, p => p :: ps
  | q :: ps, c + 1, p => q :: setPortAt ps c p

/-- The port of channel `c`. -/
def State.port (s : State) (c : Nat) : Port := portAt s.ports c

/-- The state with channel `c`'s port replaced. -/
def State.setPort (s : State) (c : Nat) (p : Port) : State := { s with ports := setPortAt s.ports c p }

/-! ### The byte spaces of a transaction (R40) -/

/-- The two spaces of R40. -/
inductive Space where
  | pay
  | fbuf
deriving DecidableEq, Repr

/-- The bytes of a space, for the transaction of request `x` on a channel (R40). -/
def spaceBytes (x : Instr) (ch : Channel) : Space → Bytes
  | .pay => x.payload
  | .fbuf => ch.fbuf

/-- `MemRead((space, off), n)`, which "requires a + n <= L" (R40). -/
def memRead (x : Instr) (ch : Channel) (sp : Space) (off n : Nat) : Except Fault Bytes :=
  if off + n ≤ (spaceBytes x ch sp).length then .ok (slice (spaceBytes x ch sp) off (off + n)) else .error .readOutOfRange

/-- `MemWrite((space, off), n, v)`: only FBUF, only at its end (R45). -/
def memWrite (ch : Channel) (sp : Space) (off n : Nat) (v : Bytes) : Except Fault Channel :=
  match sp with
  | .pay => .error .payReadOnly
  | .fbuf => if off = ch.fbuf.length ∧ v.length = n then .ok { ch with fbuf := ch.fbuf ++ v } else .error .writeNotAppend

/-- One byte of a channel's spaces as the state holds them between steps: PAY is the latched payload, and holds no byte when
nothing is latched. -/
def State.peek (s : State) (c : Nat) (sp : Space) (off : Nat) : Option Byte :=
  match sp with
  | .pay => match (s.port c).chan.latch with
    | some x => x.payload[off]?
    | none => none
  | .fbuf => (s.port c).chan.fbuf[off]?

/-! ### Ending a transaction -/

/-- `respond(r)`: the current transaction ends with response `r` and the channel returns to IDLE (R11, R25 T2, T3, T5, T6). The
latch holds a value only when the phase is not IDLE (R21), and "after the response the block keeps no copy" of FBUF (R24). -/
def respond (s : State) (r : Response) : State :=
  let p := s.port s.cur
  s.setPort s.cur { p with chan := Channel.reset, responses := p.responses ++ [r] }

/-- Taking an error (R140, R147), the block's whole exception entry: FBUF is discarded, the error response is produced and the
channel goes to IDLE; no trap, no vector, nothing saved, no mode. There is no return from it (R148). -/
def raiseError (s : State) (k : ErrorKind) : State := respond s (.error k)

/-! ### The hand-off (T4) -/

/-- The call `transmit(f)` (R121): it is logged with no answer yet, and the channel waits. The block keeps no copy of the frame
(R127); the latch keeps its value (R21). -/
def transmit (s : State) (f : Bytes) : State :=
  let p := s.port s.cur
  { s.setPort s.cur
      { p with chan := { p.chan with phase := .waitTx s.txLog.length, fbuf := [], crcAcc := none } } with
    txLog := s.txLog ++ [{ channel := s.cur, frame := f, answer := none }] }

/-! ### Reset (T7) -/

/-- Reset of one port: the channel goes to its reset values and no response is produced; what the requester presented and the
responses it already has are not block state (R160, R33; log 8). -/
def resetPort (p : Port) : Port := { p with chan := Channel.reset }

/-- Reset acts on every channel at once; the transmit log is left as it was (R160). -/
def resetBlock (s : State) : State := { s with ports := s.ports.map resetPort }

end Sys2Proof.Machine
end

