-- ==== Sys2Proof/Machine/Frame.lean ====
section
/-! DEFINITION. The mac_frame_assembler (spec/40_frame_assembly.md R81 to R84) and the crc32_framer (spec/41_crc32_framer.md
R104, R105), as the steps of BUILD's pseudocode over FBUF, and R80's pure functions, which the claims use. -/

namespace Sys2Proof.Machine

/-! ### The steps -/

/-- The size check, step 1: true when the payload is over 1500 bytes (R81). -/
def oversize (payload : Bytes) : Bool := decide (maxPayload < payload.length)

/-- Step 2: FBUF starts empty (R24); the accumulator holds no value until the first byte (R33). -/
def startFrame (ch : Channel) : Channel := { ch with fbuf := [], crcAcc := none }

/-- An append of body bytes: MemWrite (R45), with the accumulator following (R103). -/
def appendBody (ch : Channel) (off n : Nat) (v : Bytes) : Except Fault Channel :=
  match memWrite ch .fbuf off n v with
  | .ok ch' => .ok { ch' with crcAcc := crcFollow ch.fbuf ch.crcAcc v }
  | .error e => .error e

/-- Step 3: destination, source, protocol id, in that order (R82). -/
def appendHeader (x : Instr) (ch : Channel) : Except Fault Channel := do
  let ch ← appendBody ch 0 addrLen x.dst.toBytes
  let ch ← appendBody ch addrLen addrLen x.src.toBytes
  appendBody ch (2 * addrLen) protoLen x.proto.toBytes

/-- Step 4: the payload as given (R83). -/
def appendPayload (x : Instr) (ch : Channel) : Except Fault Channel := do
  let v ← memRead x ch .pay 0 x.payload.length
  appendBody ch hdrLen x.payload.length v

/-- Step 5: zeros up to 46 bytes of data, if the payload is shorter (R84). -/
def appendPadding (x : Instr) (ch : Channel) : Except Fault Channel :=
  if x.payload.length < minData then
    appendBody ch (hdrLen + x.payload.length) (minData - x.payload.length) (zeros (minData - x.payload.length))
  else .ok ch

/-- Steps 6 and 7: the CRC over everything in FBUF, appended least significant byte first (R104, R105). -/
def appendFcs (x : Instr) (ch : Channel) : Except Fault Channel := do
  let body ← memRead x ch .fbuf 0 ch.fbuf.length
  memWrite ch .fbuf ch.fbuf.length fcsLen (le32 (crc32 body))

/-- The mac_frame_assembler's steps 2 to 5: FBUF holds the body (R2, R89). -/
def assembleBody (x : Instr) (ch : Channel) : Except Fault Channel := do
  let ch ← appendHeader x (startFrame ch)
  let ch ← appendPayload x ch
  appendPadding x ch

/-- Steps 2 to 7: FBUF holds the frame (R80). -/
def buildFrame (x : Instr) (ch : Channel) : Except Fault Channel := do
  let ch ← assembleBody x ch
  appendFcs x ch

/-! ### R80's pure functions -/

/-- `body(dst, src, proto, p)` (R80). -/
def bodyOf (dst src : HardwareAddress) (proto : ProtocolId) (p : Bytes) : Bytes :=
  dst.toBytes ++ src.toBytes ++ proto.toBytes ++ p ++ zeros (max p.length minData - p.length)

/-- `frame(dst, src, proto, p)` (R80). -/
def frameOf (dst src : HardwareAddress) (proto : ProtocolId) (p : Bytes) : Bytes :=
  bodyOf dst src proto p ++ le32 (crc32 (bodyOf dst src proto p))

/-- `build(dst, src, proto, p)` (R80). -/
def buildOf (dst src : HardwareAddress) (proto : ProtocolId) (p : Bytes) : Except ErrorKind Bytes :=
  if maxPayload < p.length then .error .oversizePayload else .ok (frameOf dst src proto p)

end Sys2Proof.Machine
end

