-- ==== Sys2Proof/Machine/Build.lean ====
section
/-! DEFINITION. The command BUILD (spec/40_frame_assembly.md R80). -/

namespace Sys2Proof.Machine

/-- BUILD on the current channel (R80, R25 T2): the size check, then the steps over FBUF, then the response. -/
def execBuild (dst src : HardwareAddress) (proto : ProtocolId) (payload : Bytes) (s : State) :
    Host.Outcome State Fault Refusal :=
  if oversize payload then .next (raiseError s .oversizePayload)
  else
    match buildFrame (.build dst src proto payload) (s.port s.cur).chan with
    | .ok ch => .next (respond s (.frame ch.fbuf))
    | .error e => .fault e

end Sys2Proof.Machine
end

