-- ==== Sys2Proof/Machine/Send.lean ====
section
/-! DEFINITION. The command SEND (spec/42_transmit.md R120): its own step, and the transmitter's answer that ends it. -/

namespace Sys2Proof.Machine

/-- SEND on the current channel (R120, R25 T3 and T4): the size check, then the frame, then the one call of the transmitter. -/
def execSend (dst src : HardwareAddress) (proto : ProtocolId) (payload : Bytes) (s : State) :
    Host.Outcome State Fault Refusal :=
  if oversize payload then .next (raiseError s .oversizePayload)
  else
    match buildFrame (.send dst src proto payload) (s.port s.cur).chan with
    | .ok ch => .next (transmit s ch.fbuf)
    | .error e => .fault e

/-- The response to a SEND whose call was answered (R120, R123). -/
def finishSend (s : State) (a : TxAnswer) : State :=
  match a with
  | .ack => respond s .ack
  | .failure e => raiseError s (.transmitFailure e)

/-- An answer to call `k` (R25 T5, T6). If the calling channel is still waiting for this very call, the log records the answer
and the SEND ends; otherwise the transaction was cut off by reset and the answer is dropped (R160; log 11). -/
def answerCall (s : State) (k : Nat) (a : TxAnswer) : Host.Outcome State Fault Refusal :=
  match s.txLog[k]? with
  | none => .fault .noSuchCall
  | some call =>
    if (s.port call.channel).chan.phase = .waitTx k then
      .next (finishSend { s with cur := call.channel, txLog := s.txLog.set k { call with answer := some a } } a)
    else .next s

end Sys2Proof.Machine
end

