-- ==== Sys2Proof/Machine/Dispatch.lean ====
section
/-! DEFINITION. One arm per command (spec/opcode_table.json). -/

namespace Sys2Proof.Machine

/-- The meaning of a request on the current channel `s.cur`. -/
def exec (i : Instr) (s : State) : Host.Outcome State Fault Refusal :=
  match i with
  | .build dst src proto payload => Sys2Proof.Machine.execBuild dst src proto payload s
  | .send dst src proto payload => Sys2Proof.Machine.execSend dst src proto payload s

end Sys2Proof.Machine
end

