-- ==== Sys2Proof/Machine/Channels.lean ====
section
/-! DEFINITION. How a request comes to run (spec/10_state.md R23, R25, R27): presenting, acceptance (T1), a channel's move, the
events, and the order of moves where the script names none. -/

namespace Sys2Proof.Machine

/-- A requester presents a descriptor: it waits at the channel until the channel is IDLE (R25; log 8). -/
def presentRequest (s : State) (c : Nat) (d : Bytes) : State :=
  s.setPort c { s.port c with waiting := (s.port c).waiting ++ [d] }

/-- A channel that has just accepted request `i`: the whole request is latched and FBUF is empty (T1, R23). -/
def Channel.accepted (i : Instr) : Channel := { phase := .busy, latch := some i, fbuf := [], crcAcc := none }

/-- An IDLE channel takes up the oldest waiting descriptor. A well-formed one is accepted (T1, R23). A refused one is not: the
channel stays IDLE, there is no response, and the refusal mark is set (R65; log 9). -/
def takeUp (s : State) (c : Nat) : State :=
  let p := s.port c
  match p.waiting with
  | [] => s
  | d :: ds =>
    match decode d with
    | .ok i => s.setPort c { p with chan := Channel.accepted i, waiting := ds }
    | .error _ => { s.setPort c { p with waiting := ds } with refusalMark := true }

/-- Channel `c` makes its next transition: T1 from IDLE, T2 to T4 from BUSY by the meaning of the latched request. A phase with
no enabled transition holds (R25). -/
def goChannel (s : State) (c : Nat) : Host.Outcome State Fault Refusal :=
  match (s.port c).chan.phase with
  | .idle => .next (takeUp s c)
  | .busy =>
    match (s.port c).chan.latch with
    | some i => exec i { s with cur := c }
    | none => .fault .latchEmpty
  | .waitTx _ => .next s

/-- One event (R25; log 6). -/
def applyEvent (s : State) : Event → Host.Outcome State Fault Refusal
  | .present c d => .next (presentRequest s c d)
  | .go c => goChannel s c
  | .answer k a => answerCall s k a
  | .reset => .next (resetBlock s)

/-- A port whose channel has an enabled transition of its own: T1 (or a refusal) from IDLE, T2 to T4 from BUSY (R25). -/
def Port.ready (p : Port) : Bool :=
  match p.chan.phase with
  | .idle => !p.waiting.isEmpty
  | .busy => true
  | .waitTx _ => false

/-- The lowest-numbered ready channel of a list of ports, counting from `c`. -/
def firstReady : List Port → Nat → Option Nat
  | [], _ => none
  | p :: ps, c => if p.ready then some c else firstReady ps (c + 1)

/-- A step with no event scripted: the lowest-numbered ready channel moves, and with none ready the state holds (R25, R168).
DESIGN CHOICE (log 7): every other order is a script of `go` events. -/
def ownStep (s : State) : Host.Outcome State Fault Refusal :=
  match firstReady s.ports 0 with
  | some c => goChannel s c
  | none => .next s

/-- Channel 0 with descriptor `d` just taken up, and its move scripted next: how a request is put where the very next step runs
it (log 16). -/
def placeRequest (s : State) (d : Bytes) : State :=
  let s' := takeUp (s.setPort 0 { s.port 0 with chan := Channel.reset, waiting := d :: (s.port 0).waiting }) 0
  { s' with inputs := .go 0 :: s'.inputs }

end Sys2Proof.Machine
end

