-- ==== Sys2Proof/Machine/Step.lean ====
section
/-! DEFINITION. One step of the machine (spec/10_state.md R25), and where a step finds the request it runs. -/

namespace Sys2Proof.Machine

/-- One step: the next scripted event, or the block's own next move where the script is at its end (logs 6, 7). -/
def step (s : State) : Host.Outcome State Fault Refusal :=
  match s.inputs with
  | [] => ownStep s
  | e :: es => applyEvent { s with inputs := es } e

/-- `s` with the request laid out from `w` taken up on channel 0 and that channel's move scripted next (log 16). -/
def State.withFetchWord (s : State) (nbits w : Nat) : State := placeRequest s (layoutWord nbits w)

end Sys2Proof.Machine
end

