-- ==== Sys2Proof/Machine/Asm.lean ====
section
/-! DEFINITION. The assembler syntax of test programs (spec/30_encoding.md R66): a line's text, what it assembles to, and how a
result is written. It is a spelling of descriptors and no part of the block. -/

namespace Sys2Proof.Machine

/-- The payload forms of R66. -/
inductive PayloadForm where
  /-- `"text"`: the ASCII bytes, no terminator. -/
  | text (cs : List Char)
  /-- `hex(<pairs>)`. -/
  | hex (bs : Bytes)
  /-- `zeros(n)`. -/
  | zeros (n : Nat)
  /-- `rep(0xHH, n)`: n copies. -/
  | rep (b : Byte) (n : Nat)
  /-- `ramp(n)`: the bytes `i mod 256` for i = 0 .. n-1. -/
  | ramp (n : Nat)
  /-- `count1(n)`: the bytes 1, 2, ..., n, for n at most 255. -/
  | count1 (n : Nat)
deriving DecidableEq, Repr

/-- The bytes a payload form stands for (R66). -/
def PayloadForm.toBytes : PayloadForm → Bytes
  | .text cs => cs.map fun c => BitVec.ofNat 8 c.toNat
  | .hex bs => bs
  | .zeros n => Sys2Proof.zeros n
  | .rep b n => List.replicate n b
  | .ramp n => (List.range n).map fun i => BitVec.ofNat 8 i
  | .count1 n => (List.range n).map fun i => BitVec.ofNat 8 (i + 1)

/-- One line: one BUILD or SEND (R66: there are no pseudo-instructions). -/
structure AsmLine where
  command : Command
  dst : HardwareAddress
  src : HardwareAddress
  proto : ProtocolId
  payload : PayloadForm
deriving DecidableEq, Repr

/-- The request a line stands for. -/
def AsmLine.request (l : AsmLine) : Instr := Instr.ofCommand l.command l.dst l.src l.proto l.payload.toBytes

/-- A line assembles to its request's descriptor, with PLEN the payload's length (R66). This is a descriptor of the line only
where one can carry its payload, `Instr.wf`; see `AsmLine.descriptor?` for the others. -/
def AsmLine.assemble (l : AsmLine) : Bytes := encode l.request

/-- The descriptor of a line, or none where the payload is over 65535 bytes (`zeros(65536)`): no descriptor carries such a
payload (R63), and R66 does not say what such a line assembles to. DESIGN CHOICE, safe (log 21). -/
def AsmLine.descriptor? (l : AsmLine) : Option Bytes := if l.request.wf then some l.assemble else none

/-! ### Reading a line's text -/

/-- The rest of a text after an expected beginning. -/
def eat : List Char → List Char → Option (List Char)
  | [], cs => some cs
  | _ :: _, [] => none
  | e :: es, c :: cs => if e = c then eat es cs else none

/-- A hexadecimal digit's value. -/
def hexDigit (c : Char) : Option Nat :=
  if '0' ≤ c ∧ c ≤ '9' then some (c.toNat - '0'.toNat)
  else if 'a' ≤ c ∧ c ≤ 'f' then some (c.toNat - 'a'.toNat + 10)
  else if 'A' ≤ c ∧ c ≤ 'F' then some (c.toNat - 'A'.toNat + 10)
  else none

/-- One hex pair, the high digit first. -/
def hexPair : List Char → Option (Byte × List Char)
  | a :: b :: cs => do
    let h ← hexDigit a
    let l ← hexDigit b
    some (BitVec.ofNat 8 (h * 16 + l), cs)
  | _ => none

/-- `n` hex pairs separated by colons, the first pair first. -/
def colonPairs : Nat → List Char → Option (Bytes × List Char)
  | 0, cs => some ([], cs)
  | 1, cs => do
    let (b, cs) ← hexPair cs
    some ([b], cs)
  | n + 1, cs => do
    let (b, cs) ← hexPair cs
    let cs ← eat [':'] cs
    let (bs, cs) ← colonPairs n cs
    some (b :: bs, cs)

/-- `<mac>` (R66). -/
def readMac (cs : List Char) : Option (HardwareAddress × List Char) := do
  let (bs, cs) ← colonPairs 6 cs
  some (addressAt bs 0, cs)

/-- `<hh:hh>` (R66). -/
def readProto (cs : List Char) : Option (ProtocolId × List Char) := do
  let (bs, cs) ← colonPairs 2 cs
  some (⟨bs.getD 0 0, bs.getD 1 0⟩, cs)

/-- Decimal digits up to the first other character; at least one; leading zeros are allowed (log 18). -/
def readDigits : Option Nat → List Char → Option (Nat × List Char)
  | acc, [] => acc.map (·, [])
  | acc, c :: cs =>
    if '0' ≤ c ∧ c ≤ '9' then readDigits (some (acc.getD 0 * 10 + (c.toNat - '0'.toNat))) cs
    else acc.map (·, c :: cs)

/-- A number in brackets' end: digits, then `)` as the line's last character. -/
def readCount (cs : List Char) : Option Nat :=
  match readDigits none cs with
  | some (n, [')']) => some n
  | _ => none

/-- Hex pairs up to `)` as the line's last character. Any number of spaces, or none, may stand before, between and after the pairs,
but not inside one, and there may be no pair at all: R66 does not say. DESIGN CHOICE, safe (log 18). -/
def readHexBody : List Char → Option Bytes
  | [')'] => some []
  | ' ' :: cs => readHexBody cs
  | a :: b :: cs => do
    let (x, _) ← hexPair [a, b]
    let xs ← readHexBody cs
    some (x :: xs)
  | _ => none

/-- ASCII text up to `"` as the line's last character. A `"` within the text, and a character that is not ASCII, make the text no
line: R66 gives no way to write a quote in a text and does not say whether one may stand there. DESIGN CHOICE, safe (log 18). -/
def readText : List Char → Option (List Char)
  | [] => none
  | ['"'] => some []
  | c :: cs => if c = '"' ∨ 127 < c.toNat then none else (readText cs).map (c :: ·)

/-- `<payload>` (R66), to the end of the line. -/
def readPayload (cs : List Char) : Option PayloadForm :=
  match cs with
  | '"' :: cs => (readText cs).map .text
  | 'h' :: 'e' :: 'x' :: '(' :: cs => (readHexBody cs).map .hex
  | 'z' :: 'e' :: 'r' :: 'o' :: 's' :: '(' :: cs => (readCount cs).map .zeros
  | 'r' :: 'e' :: 'p' :: '(' :: '0' :: 'x' :: cs => do
    let (b, cs) ← hexPair cs
    let cs ← eat [',', ' '] cs
    let n ← readCount cs
    some (.rep b n)
  | 'r' :: 'a' :: 'm' :: 'p' :: '(' :: cs => (readCount cs).map .ramp
  | 'c' :: 'o' :: 'u' :: 'n' :: 't' :: '1' :: '(' :: cs => do
    let n ← readCount cs
    if n ≤ 255 then some (.count1 n) else none
  | _ => none

/-- The command word, in capitals, and the one or more spaces after it (log 18). -/
def readCommand (cs : List Char) : Option (Command × List Char) :=
  match cs with
  | 'B' :: 'U' :: 'I' :: 'L' :: 'D' :: ' ' :: cs => some (.build, cs.dropWhile (· = ' '))
  | 'S' :: 'E' :: 'N' :: 'D' :: ' ' :: cs => some (.send, cs.dropWhile (· = ' '))
  | _ => none

/-- A whole line (R66), its operands in the order and with the spaces the rule shows (log 18). -/
def readLine (cs : List Char) : Option AsmLine := do
  let (c, cs) ← readCommand cs
  let cs ← eat ['d', 's', 't', '='] cs
  let (dst, cs) ← readMac cs
  let cs ← eat [',', ' ', 's', 'r', 'c', '='] cs
  let (src, cs) ← readMac cs
  let cs ← eat [',', ' ', 'p', 'r', 'o', 't', 'o', '='] cs
  let (proto, cs) ← readProto cs
  let cs ← eat [',', ' ', 'p', 'a', 'y', 'l', 'o', 'a', 'd', '='] cs
  let p ← readPayload cs
  some ⟨c, dst, src, proto, p⟩

/-- A line's text to its descriptor; none where the text is no line of R66, or the line has no descriptor (log 21). -/
def assembleLine (line : String) : Option Bytes := (readLine line.toList).bind AsmLine.descriptor?

/-- How R66 writes a response; a `TxError`, whose spelling R66 leaves open, by its number. DESIGN
CHOICE, safe (log 3). -/
def Response.spelling : Response → String
  | .frame f => "=> OK frame(" ++ toString f.length ++ ")"
  | .ack => "=> OK ack"
  | .error .oversizePayload => "=> OVERSIZE_PAYLOAD"
  | .error (.transmitFailure e) => "=> TRANSMIT_FAILURE(" ++ toString e.id ++ ")"

end Sys2Proof.Machine
end

