-- ==== Sys2Proof/Machine/Flags.lean ====
section
/-! DEFINITION. The block has no flags, condition codes or predicates (spec/10_state.md R28): a transaction's outcome is
reported only in its response status. This file holds that status and the response's bytes (spec/30_encoding.md R64). -/

namespace Sys2Proof.Machine

/-- The status byte `r[0]` (R64, R141, R142). -/
def Response.status : Response → Byte
  | .frame _ => 0x00#8
  | .ack => 0x00#8
  | .error .oversizePayload => 0x01#8
  | .error (.transmitFailure _) => 0x02#8

/-- What follows the status (R64): FLEN big-endian and the frame, nothing, or the transmitter's error unchanged. -/
def Response.rest : Response → Bytes
  | .frame f => be16 (BitVec.ofNat 16 f.length) ++ f
  | .ack => []
  | .error .oversizePayload => []
  | .error (.transmitFailure e) => Config.encodeTxError e

/-- The response's bytes, format RSP (R64). -/
def Response.encode (r : Response) : Bytes := r.status :: r.rest

end Sys2Proof.Machine
end

