-- ==== Sys2Proof/Safety.lean ====
section
/-! DEFINITION. What a well-behaved state is, which moves the transition table allows, and the terms the claims use. -/

namespace Sys2Proof.Machine

/-! ### Frames and outcomes -/

/-- `f` is a frame BUILD yields: R80's `frame` of some operands whose payload is accepted. -/
def IsFrame (f : Bytes) : Prop :=
  ∃ dst src proto p, p.length ≤ maxPayload ∧ f = frameOf dst src proto p

/-- A response is whole: a frame it carries is a frame (R46: no partial frames). -/
def Response.whole : Response → Prop
  | .frame f => IsFrame f
  | .ack => True
  | .error _ => True

/-- `exec i s` completes and the current channel's response is the frame `f`. -/
def ReturnsFrame (i : Instr) (s : State) (f : Bytes) : Prop :=
  ∃ t, exec i s = .next t ∧ (t.port s.cur).responses = (s.port s.cur).responses ++ [.frame f]

/-- `exec i s` completes by calling the transmitter once, with `f`. -/
def HandsOver (i : Instr) (s : State) (f : Bytes) : Prop :=
  ∃ t, exec i s = .next t ∧ t.txLog = s.txLog ++ [{ channel := s.cur, frame := f, answer := none }]

/-- The response R80 gives a BUILD: `build`'s result. -/
def buildResponse (dst src : HardwareAddress) (proto : ProtocolId) (p : Bytes) : Response :=
  match buildOf dst src proto p with
  | .ok f => .frame f
  | .error k => .error k

/-- The response R120 gives a SEND whose call was answered `a`. -/
def answerResponse : TxAnswer → Response
  | .ack => .ack
  | .failure e => .error (.transmitFailure e)

/-! ### The invariant -/

/-- What holds of channel `c` between steps: FBUF and the accumulator are empty (R24, R31, R127), the latch holds a value exactly
when the phase is not IDLE (R21), and a channel in WAIT_TX is a SEND with an accepted payload whose own unanswered call, with
the frame of its latched operands, is the one it waits for (R25 T4). -/
def ChannelOk (log : List TxCall) (c : Nat) (ch : Channel) : Prop :=
  ch.fbuf = [] ∧ ch.crcAcc = none ∧
    match ch.phase with
    | .idle => ch.latch = none
    | .busy => ∃ i, ch.latch = some i
    | .waitTx k => ∃ dst src proto p, ch.latch = some (.send dst src proto p) ∧ p.length ≤ maxPayload ∧
        log[k]? = some { channel := c, frame := frameOf dst src proto p, answer := none }

/-- The machine's invariant. -/
structure State.Inv (s : State) : Prop where
  channels : ∀ c, ChannelOk s.txLog c (s.port c).chan
  calls : ∀ call ∈ s.txLog, IsFrame call.frame
  responses : ∀ c, ∀ r ∈ (s.port c).responses, r.whole

/-! ### NUM_CHANNELS (log 2) -/

/-- The event names only channels below `n`. -/
def Event.within (n : Nat) : Event → Prop
  | .present c _ => c < n
  | .go c => c < n
  | .answer _ _ => True
  | .reset => True

/-- The state is one of a block with `n` channels, numbered `0 .. n-1` (R154): it names no other channel. `n` is NUM_CHANNELS,
"at least 1" (R21), taken as an argument (R9). -/
structure State.withinChannels (n : Nat) (s : State) : Prop where
  ports : s.ports.length ≤ n
  cur : s.cur < n
  calls : ∀ call ∈ s.txLog, call.channel < n
  events : ∀ e ∈ s.inputs, e.within n

/-! ### The transition table (R25) -/

/-- What a step may do to channel `c`: hold, or one row of R25's table with its event (the answer of T5 and T6, the
reset of T7) or condition and its effect. That T4 names its call by its number, and that T5 and T6 are the answer to the channel's
own call's number, is the model's reading (log 11), and so are FBUF emptied by T2 to T6 (log 12) and the accumulator without a value
after T1 to T6 (log 13). -/
inductive ChannelMove (s t : State) (c : Nat) : Prop where
  | hold : (t.port c).chan = (s.port c).chan → (t.port c).responses = (s.port c).responses → ChannelMove s t c
  | t1 (d : Bytes) (ds : List Bytes) (i : Instr) :
      (s.port c).chan.phase = .idle → (s.port c).waiting = d :: ds → decode d = .ok i →
      t.port c = { chan := { phase := .busy, latch := some i, fbuf := [], crcAcc := none },
                   waiting := ds, responses := (s.port c).responses } →
      t.txLog = s.txLog → ChannelMove s t c
  | t2 (dst src : HardwareAddress) (proto : ProtocolId) (p : Bytes) :
      (s.port c).chan.phase = .busy → (s.port c).chan.latch = some (.build dst src proto p) →
      t.port c = { chan := Channel.reset, waiting := (s.port c).waiting,
                   responses := (s.port c).responses ++ [buildResponse dst src proto p] } →
      t.txLog = s.txLog → ChannelMove s t c
  | t3 (dst src : HardwareAddress) (proto : ProtocolId) (p : Bytes) :
      (s.port c).chan.phase = .busy → (s.port c).chan.latch = some (.send dst src proto p) → maxPayload < p.length →
      t.port c = { chan := Channel.reset, waiting := (s.port c).waiting,
                   responses := (s.port c).responses ++ [.error .oversizePayload] } →
      t.txLog = s.txLog → ChannelMove s t c
  | t4 (dst src : HardwareAddress) (proto : ProtocolId) (p : Bytes) :
      (s.port c).chan.phase = .busy → (s.port c).chan.latch = some (.send dst src proto p) → p.length ≤ maxPayload →
      t.port c = { chan := { phase := .waitTx s.txLog.length, latch := some (.send dst src proto p), fbuf := [],
                             crcAcc := none },
                   waiting := (s.port c).waiting, responses := (s.port c).responses } →
      t.txLog = s.txLog ++ [{ channel := c, frame := frameOf dst src proto p, answer := none }] → ChannelMove s t c
  | t5 (k : Nat) (call : TxCall) (es : List Event) :
      s.inputs = .answer k .ack :: es → (s.port c).chan.phase = .waitTx k → s.txLog[k]? = some call → call.channel = c →
      t.port c = { chan := Channel.reset, waiting := (s.port c).waiting,
                   responses := (s.port c).responses ++ [.ack] } →
      t.txLog = s.txLog.set k { call with answer := some .ack } → ChannelMove s t c
  | t6 (k : Nat) (call : TxCall) (e : TxError) (es : List Event) :
      s.inputs = .answer k (.failure e) :: es → (s.port c).chan.phase = .waitTx k → s.txLog[k]? = some call → call.channel = c →
      t.port c = { chan := Channel.reset, waiting := (s.port c).waiting,
                   responses := (s.port c).responses ++ [.error (.transmitFailure e)] } →
      t.txLog = s.txLog.set k { call with answer := some (.failure e) } → ChannelMove s t c
  | t7 (es : List Event) :
      s.inputs = .reset :: es →
      t.port c = { chan := Channel.reset, waiting := (s.port c).waiting, responses := (s.port c).responses } →
      t.txLog = s.txLog → ChannelMove s t c

/-- The step is channel `c`'s own move: a `go` scripted for it, or, with nothing scripted, it is the lowest-numbered ready channel
(log 7). -/
def State.movesOf (s : State) (c : Nat) : Prop :=
  (∃ es, s.inputs = .go c :: es) ∨
    (s.inputs = [] ∧ (s.port c).ready = true ∧ ∀ c', c' < c → (s.port c').ready = false)

/-- What a step does to channel `c`'s waiting requests (R25, R163; the list is the model's, log 8): it adds a descriptor presented
there, last; an IDLE channel's own move takes up the head and nothing more, accepted or refused (log 9); and every other step, reset
among them, keeps the list. -/
structure WaitingMove (s t : State) (c : Nat) : Prop where
  presented : ∀ d es, s.inputs = .present c d :: es → (t.port c).waiting = (s.port c).waiting ++ [d]
  takenUp : (s.port c).chan.phase = .idle → s.movesOf c → (t.port c).waiting = (s.port c).waiting.tail
  kept : (∀ d es, s.inputs ≠ .present c d :: es) → ¬ ((s.port c).chan.phase = .idle ∧ s.movesOf c) →
    (t.port c).waiting = (s.port c).waiting

/-! ### Runs -/

/-- A run is over (92 D15): no event is scripted, every channel is IDLE with no request waiting, so no answer is due. -/
def State.runOver (s : State) : Bool :=
  s.inputs.isEmpty && s.ports.all fun p => decide (p.chan.phase = .idle) && p.waiting.isEmpty

/-- A run in which no descriptor was refused: the only runs claims are meant for (R65, 92 D7). -/
def State.unmarked (s : State) : Prop := s.refusalMark = false

/-- The moves a channel in a phase still makes before it is IDLE or waiting: one from BUSY. -/
def Phase.work : Phase → Nat
  | .idle => 0
  | .busy => 1
  | .waitTx _ => 0

/-- How many moves the channels can still make on their own: two for a waiting descriptor, one for a BUSY channel (R168; log 19). -/
def workOf : List Port → Nat
  | [] => 0
  | p :: ps => 2 * p.waiting.length + p.chan.phase.work + workOf ps

/-- The script answers only calls that were made (log 17). -/
def State.nextAnswersMade (s : State) : Prop :=
  ∀ k a es, s.inputs = .answer k a :: es → k < s.txLog.length

/-- An assumption on the environment, for claims that want it: no frame over TX_LINK_LIMIT was acknowledged (R9, log 5). -/
def State.linkLimitHonoured (s : State) : Prop :=
  ∀ call ∈ s.txLog, call.answer = some .ack → ∀ n, Config.txLinkLimit = some n → call.frame.length ≤ n

/-! ### Comparing two runs -/

/-- A phase without the number of its call, which depends on how many calls other channels made (log 11). -/
def Phase.forgetCall : Phase → Phase
  | .idle => .idle
  | .busy => .busy
  | .waitTx _ => .waitTx 0

/-- A port without the number of its call: everything that the spec gives the channel and its requester. -/
def Port.forgetCall (p : Port) : Port := { p with chan := { p.chan with phase := p.chan.phase.forgetCall } }

end Sys2Proof.Machine
end

