-- ==== Sys2Proof/Certificates/Slice0/Obligations.lean ====
section
/-! DEFINITION. The statements for the provers, from the numbered rules of spec/. -/

open Sys2Proof Sys2Proof.Machine

/-! ### Encoding (30_encoding.md) -/

/-- Decoding the descriptor of any request a descriptor can carry gives that request back, every operand at every value
(R60, R62, R63). -/
def Obligations.DecodeInvertsEncode : Prop :=
  ∀ i : Instr, i.wf = true → decode (encode i) = .ok i

/-- Each accepted byte string is the descriptor of what it decodes to: no bit of it is ignored (R60, R61, R63). -/
def Obligations.AcceptedBytesAreTheEncoding : Prop :=
  ∀ (d : Bytes) (i : Instr), decode d = .ok i → i.wf = true ∧ encode i = d

/-- R65's table, row by row, and what a refused descriptor does: when the IDLE channel's move takes it up it is removed from that
channel's waiting requests, those behind it stay, and it sets the refusal mark; nothing else changes. R65 gives the outcome (no
acceptance, no response, the mark); that the descriptor is decoded when it is taken up and then leaves the list is the model's
reading (log 9), and the list its form of waiting (log 8). -/
def Obligations.DecoderFollowsRefusalTable : Prop :=
  decode [] = .error .empty ∧
  (∀ (op : Byte) (rest : Bytes), op ≠ 0x01#8 → op ≠ 0x02#8 → decode (op :: rest) = .error (.reservedOpcode op)) ∧
  (∀ (op : Byte) (rest : Bytes), op = 0x01#8 ∨ op = 0x02#8 → (op :: rest).length < 17 →
    decode (op :: rest) = .error .shortDescriptor) ∧
  (∀ (op : Byte) (rest : Bytes), op = 0x01#8 ∨ op = 0x02#8 → 17 ≤ (op :: rest).length →
    (op :: rest).length ≠ 17 + readBe16 (op :: rest) 15 → decode (op :: rest) = .error .lengthMismatch) ∧
  (∀ d : Bytes, 17 ≤ d.length → d.length = 17 + readBe16 d 15 →
    (d.head? = some 0x01#8 → decode d = .ok (.build (dstOf d) (srcOf d) (protoOf d) (payloadOf d))) ∧
    (d.head? = some 0x02#8 → decode d = .ok (.send (dstOf d) (srcOf d) (protoOf d) (payloadOf d)))) ∧
  (∀ (s : State) (c : Nat) (es : List Event) (d : Bytes) (ds : List Bytes) (r : DecodeRefusal),
    s.inputs = .go c :: es → (s.port c).chan.phase = .idle → (s.port c).waiting = d :: ds → decode d = .error r →
    ∃ t, step s = .next t ∧ (t.port c).waiting = ds ∧ (t.port c).chan = (s.port c).chan ∧
      (t.port c).responses = (s.port c).responses ∧ t.refusalMark = true ∧ t.txLog = s.txLog ∧ t.inputs = es ∧
      ∀ c', c' ≠ c → t.port c' = s.port c')

/-- The operands of an accepted descriptor are its slices, unchanged, and PLEN is unsigned and big-endian (R63). -/
def Obligations.OperandsAreDescriptorSlices : Prop :=
  ∀ (d : Bytes) (i : Instr), decode d = .ok i →
    d.head? = some i.op.code ∧ i.dst.toBytes = slice d 1 7 ∧ i.src.toBytes = slice d 7 13 ∧
    i.proto.toBytes = slice d 13 15 ∧ i.payload = slice d 17 (17 + readBe16 d 15) ∧
    i.payload.length = readBe16 d 15 ∧ readBe16 d 15 ≤ 65535 ∧ d.length = 17 + i.payload.length

/-- R67's example: the line assembles to its 20 bytes, and they decode to its BUILD. -/
def Obligations.ExampleLineAssembles : Prop :=
  assembleLine "BUILD dst=14:b3:1f:23:8c:c6, src=00:11:22:33:44:55, proto=88:b5, payload=\"cat\"" =
    some [0x01, 0x14, 0xb3, 0x1f, 0x23, 0x8c, 0xc6, 0x00, 0x11, 0x22, 0x33, 0x44, 0x55, 0x88, 0xb5, 0x00, 0x03,
      0x63, 0x61, 0x74] ∧
  decode [0x01, 0x14, 0xb3, 0x1f, 0x23, 0x8c, 0xc6, 0x00, 0x11, 0x22, 0x33, 0x44, 0x55, 0x88, 0xb5, 0x00, 0x03,
      0x63, 0x61, 0x74] =
    .ok (.build ⟨0x14, 0xb3, 0x1f, 0x23, 0x8c, 0xc6⟩ ⟨0x00, 0x11, 0x22, 0x33, 0x44, 0x55⟩ ⟨0x88, 0xb5⟩
      [0x63, 0x61, 0x74])

/-- Words written out from R60: a SEND of "cat", a SEND of one byte, and the smallest descriptor, a BUILD. -/
def Obligations.WrittenWordsDecode : Prop :=
  decode [0x02, 0x14, 0xb3, 0x1f, 0x23, 0x8c, 0xc6, 0x00, 0x11, 0x22, 0x33, 0x44, 0x55, 0x88, 0xb5, 0x00, 0x03,
      0x63, 0x61, 0x74] =
    .ok (.send ⟨0x14, 0xb3, 0x1f, 0x23, 0x8c, 0xc6⟩ ⟨0x00, 0x11, 0x22, 0x33, 0x44, 0x55⟩ ⟨0x88, 0xb5⟩
      [0x63, 0x61, 0x74]) ∧
  decode [0x02, 0xff, 0xff, 0xff, 0xff, 0xff, 0xff, 0x00, 0x11, 0x22, 0x33, 0x44, 0x55, 0x08, 0x00, 0x00, 0x01, 0xff] =
    .ok (.send ⟨0xff, 0xff, 0xff, 0xff, 0xff, 0xff⟩ ⟨0x00, 0x11, 0x22, 0x33, 0x44, 0x55⟩ ⟨0x08, 0x00⟩ [0xff]) ∧
  decode [0x01, 0x14, 0xb3, 0x1f, 0x23, 0x8c, 0xc6, 0x00, 0x11, 0x22, 0x33, 0x44, 0x55, 0x88, 0xb5, 0x00, 0x00] =
    .ok (.build ⟨0x14, 0xb3, 0x1f, 0x23, 0x8c, 0xc6⟩ ⟨0x00, 0x11, 0x22, 0x33, 0x44, 0x55⟩ ⟨0x88, 0xb5⟩ [])

/-- The bytes of each response, the frame's length big-endian before it, and no other status (R64). -/
def Obligations.ResponseBytes : Prop :=
  (∀ f : Bytes, IsFrame f →
    64 ≤ f.length ∧ f.length ≤ 1518 ∧
    ∃ hi lo : Byte, (Response.frame f).encode = 0x00#8 :: hi :: lo :: f ∧ hi.toNat * 256 + lo.toNat = f.length) ∧
  Response.ack.encode = [0x00#8] ∧
  (Response.error .oversizePayload).encode = [0x01#8] ∧
  (∀ e : TxError, (Response.error (.transmitFailure e)).encode = 0x02#8 :: Config.encodeTxError e) ∧
  (∀ r : Response, ∃ b rest, r.encode = b :: rest ∧ (b = 0x00#8 ∨ b = 0x01#8 ∨ b = 0x02#8))

/-! ### BUILD, SEND and the frame (40_frame_assembly.md, 20_memory.md, 42_transmit.md) -/

/-- BUILD's steps over FBUF answer exactly what R80's pure function gives, whatever the state, and change nothing else: the
whole next state is written out, with OversizePayload exactly when L is over 1500. R80's example: the "cat" frame's bytes
14 to 63 as the rule gives them. R80 itself says nothing of what the channel holds afterwards: that FBUF and the latch are emptied
at the response is the model's reading of R24 and R21 (log 12), that the accumulator holds no value is log 13, and the
checksum's bytes rest on the CRC numbers the spec takes from general knowledge (log 1). -/
def Obligations.BuildAnswersPureBuild : Prop :=
  (∀ (dst src : HardwareAddress) (proto : ProtocolId) (p : Bytes) (s : State),
    exec (.build dst src proto p) s = .next (s.setPort s.cur
      { chan := { phase := .idle, latch := none, fbuf := [], crcAcc := none },
        waiting := (s.port s.cur).waiting,
        responses := (s.port s.cur).responses ++
          [if 1500 < p.length then .error .oversizePayload else .frame (frameOf dst src proto p)] })) ∧
  (frameOf ⟨0x14, 0xb3, 0x1f, 0x23, 0x8c, 0xc6⟩ ⟨0x00, 0x11, 0x22, 0x33, 0x44, 0x55⟩ ⟨0x88, 0xb5⟩
      [0x63, 0x61, 0x74]).drop 14 =
    [0x63, 0x61, 0x74] ++ List.replicate 43 0x00#8 ++ [0x00, 0xe3, 0x00, 0x1c]

/-- The size check (R81, R141): over 1500 bytes, each command ends at once with the error, whose response is `01`, and nothing
else changes (no frame, no call); 1500 bytes are still accepted. The whole next state is written out: that FBUF and the latch are
emptied at the response is the model's reading of R24 and R21 (log 12), and that the accumulator holds no value is log 13. -/
def Obligations.OversizeRequestAnswersError : Prop :=
  (∀ (i : Instr) (s : State), 1500 < i.payload.length →
    exec i s = .next (s.setPort s.cur
      { chan := { phase := .idle, latch := none, fbuf := [], crcAcc := none },
        waiting := (s.port s.cur).waiting,
        responses := (s.port s.cur).responses ++ [.error .oversizePayload] })) ∧
  (Response.error .oversizePayload).encode = [0x01#8] ∧
  (∀ (dst src : HardwareAddress) (proto : ProtocolId) (p : Bytes) (s : State), p.length ≤ 1500 →
    ∃ f, ReturnsFrame (.build dst src proto p) s f)

/-- SEND's own step (R120, T4): the frame goes to the transmitter in one logged call, the channel waits for that call, and
nothing else changes; the block keeps no copy of the frame (R127). The whole next state is written out. That WAIT_TX remembers
the call by its number, its place in the transmit log, is the model's own (log 11), and so is that the accumulator holds no
value already in WAIT_TX (log 13); FBUF emptied at the hand-off is log 12. -/
def Obligations.SendHandsFrameOver : Prop :=
  ∀ (dst src : HardwareAddress) (proto : ProtocolId) (p : Bytes) (s : State), p.length ≤ 1500 →
    exec (.send dst src proto p) s = .next
      { s.setPort s.cur
          { chan := { phase := .waitTx s.txLog.length, latch := (s.port s.cur).chan.latch, fbuf := [], crcAcc := none },
            waiting := (s.port s.cur).waiting,
            responses := (s.port s.cur).responses } with
        txLog := s.txLog ++ [{ channel := s.cur, frame := frameOf dst src proto p, answer := none }] }

/-- The bytes handed to the transmitter are the frame a BUILD of the same operands returns (R54), in any two states. -/
def Obligations.SentFrameIsBuiltFrame : Prop :=
  ∀ (dst src : HardwareAddress) (proto : ProtocolId) (p : Bytes) (s t : State) (f : Bytes),
    ReturnsFrame (.build dst src proto p) s f → HandsOver (.send dst src proto p) t f

/-- R47's offset map of the frame BUILD returns. -/
def Obligations.FrameOffsetMap : Prop :=
  ∀ (dst src : HardwareAddress) (proto : ProtocolId) (p : Bytes) (s : State), p.length ≤ 1500 →
    ∃ f, ReturnsFrame (.build dst src proto p) s f ∧
      f.length = 14 + max p.length 46 + 4 ∧ 64 ≤ f.length ∧ f.length ≤ 1518 ∧
      slice f 0 6 = dst.toBytes ∧ slice f 6 12 = src.toBytes ∧ slice f 12 14 = proto.toBytes ∧
      slice f 14 (14 + p.length) = p ∧
      slice f (14 + p.length) (14 + max p.length 46) = List.replicate (max p.length 46 - p.length) 0x00#8 ∧
      slice f (14 + max p.length 46) f.length = le32 (crc32 (slice f 0 (14 + max p.length 46)))

/-- Which way round a frame's multi-byte fields stand: the protocol id most significant byte first (R41), the checksum least
significant byte first (R42). -/
def Obligations.FrameByteOrder : Prop :=
  ∀ (dst src : HardwareAddress) (proto : ProtocolId) (p : Bytes) (s : State), p.length ≤ 1500 →
    ∃ f, ReturnsFrame (.build dst src proto p) s f ∧
      slice f 0 6 = dst.toBytes ∧ slice f 6 12 = src.toBytes ∧
      f[12]? = some proto.hi ∧ f[13]? = some proto.lo ∧ readBe16 f 12 = proto.hi.toNat * 256 + proto.lo.toNat ∧
      f[f.length - 4]? = some ((crc32 (f.take (f.length - 4))).extractLsb' 0 8) ∧
      f[f.length - 3]? = some ((crc32 (f.take (f.length - 4))).extractLsb' 8 8) ∧
      f[f.length - 2]? = some ((crc32 (f.take (f.length - 4))).extractLsb' 16 8) ∧
      f[f.length - 1]? = some ((crc32 (f.take (f.length - 4))).extractLsb' 24 8)

/-- The header step (R82) on an empty FBUF. -/
def Obligations.HeaderStep : Prop :=
  ∀ (x : Instr) (ch : Channel), ch.fbuf = [] →
    ∃ ch', appendHeader x ch = .ok ch' ∧ ch'.fbuf.length = 14 ∧
      slice ch'.fbuf 0 6 = x.dst.toBytes ∧ slice ch'.fbuf 6 12 = x.src.toBytes ∧ slice ch'.fbuf 12 14 = x.proto.toBytes

/-- The payload step (R83) and the padding step (R84), each on the FBUF the step before it leaves: what they append, the bytes
before it unchanged, and the lengths. -/
def Obligations.PayloadAndPaddingSteps : Prop :=
  ∀ (x : Instr) (ch : Channel),
    (ch.fbuf.length = 14 → ∃ ch', appendPayload x ch = .ok ch' ∧ ch'.fbuf = ch.fbuf ++ x.payload ∧
      ch'.fbuf.length = 14 + x.payload.length ∧ slice ch'.fbuf 14 (14 + x.payload.length) = x.payload) ∧
    (ch.fbuf.length = 14 + x.payload.length → ∃ ch', appendPadding x ch = .ok ch' ∧
      (x.payload.length < 46 → ch'.fbuf = ch.fbuf ++ List.replicate (46 - x.payload.length) 0x00#8) ∧
      (46 ≤ x.payload.length → ch'.fbuf = ch.fbuf) ∧
      ch'.fbuf.length = 14 + max x.payload.length 46)

/-- Trailing zeros cannot be told apart from padding (R88). -/
def Obligations.TrailingZerosLookLikePadding : Prop :=
  ∀ (dst src : HardwareAddress) (proto : ProtocolId) (p : Bytes) (k : Nat) (s t : State), p.length + k ≤ 46 →
    ∃ f, ReturnsFrame (.build dst src proto p) s f ∧
      ReturnsFrame (.build dst src proto (p ++ List.replicate k 0x00#8)) t f

/-- What a command's own step leaves alone: every other channel, the current channel's waiting requests and earlier responses,
the earlier entries of the transmit log (all of it, for BUILD), the mark, the events to come, and every byte of both spaces of
every other channel; for a SEND that goes on to wait, also every byte of the current channel's PAY. -/
def Obligations.CommandsFrame : Prop :=
  ∀ (i : Instr) (s t : State), exec i s = .next t →
    (∀ c, c ≠ s.cur → t.port c = s.port c) ∧
    (∀ c sp off, c ≠ s.cur → t.peek c sp off = s.peek c sp off) ∧
    (t.port s.cur).waiting = (s.port s.cur).waiting ∧
    (s.port s.cur).responses <+: (t.port s.cur).responses ∧
    s.txLog <+: t.txLog ∧ (i.op = .build → t.txLog = s.txLog) ∧
    t.refusalMark = s.refusalMark ∧ t.inputs = s.inputs ∧ t.cur = s.cur ∧
    ((t.port s.cur).chan.phase ≠ .idle →
      (t.port s.cur).chan.latch = (s.port s.cur).chan.latch ∧ ∀ off, t.peek s.cur .pay off = s.peek s.cur .pay off)

/-- What a command answers or hands over depends on its operands alone, never on the state it runs in (R20, R46): in any two
states it completes, with the same responses added and the same frames handed over. -/
def Obligations.OutcomeDependsOnOperandsOnly : Prop :=
  ∀ (i : Instr) (s t : State), ∃ s' t' rs fs,
    exec i s = .next s' ∧ exec i t = .next t' ∧
    (s'.port s.cur).responses = (s.port s.cur).responses ++ rs ∧
    (t'.port t.cur).responses = (t.port t.cur).responses ++ rs ∧
    s'.txLog.map TxCall.frame = s.txLog.map TxCall.frame ++ fs ∧
    t'.txLog.map TxCall.frame = t.txLog.map TxCall.frame ++ fs

/-! ### CRC-32 (41_crc32_framer.md) -/

/-- R101's check values. The CRC's numbers are the spec's from general knowledge (log 1). -/
def Obligations.CrcCheckValues : Prop :=
  crc32 [0x31, 0x32, 0x33, 0x34, 0x35, 0x36, 0x37, 0x38, 0x39] = 0xCBF43926#32 ∧ crc32 [] = 0x00000000#32

/-- The table-driven form gives the same CRC for every sequence, and the table has R102's entries. The CRC's numbers, the table
form and its entries are the spec's general knowledge, not the source's (log 1, PRESUMED). -/
def Obligations.TableFormEqualsBitForm : Prop :=
  (∀ s : Bytes, crc32ByTable s = crc32 s) ∧
  crcTable 0x00#8 = 0x00000000#32 ∧ crcTable 0x01#8 = 0x77073096#32 ∧ crcTable 0x02#8 = 0xEE0E612C#32 ∧
  crcTable 0x80#8 = 0xEDB88320#32 ∧ crcTable 0xFF#8 = 0x2D02EF8D#32

/-- The byte-serial datapath (R103): after the assembler's appends the accumulator, inverted, is the CRC of the body; each append
of body bytes keeps that so, from an empty FBUF on; and a command leaves no accumulator behind, a SEND that goes on to wait
included. R103 says only that nothing carries it from one transaction to the next: an accumulator held per channel, and without a
value after every command's own step, is the model's (log 13). -/
def Obligations.AccumulatorFollowsBody : Prop :=
  (∀ (x : Instr) (ch : Channel), ∃ ch' A, assembleBody x ch = .ok ch' ∧ ch'.crcAcc = some A ∧
    A ^^^ 0xFFFFFFFF#32 = crc32 ch'.fbuf) ∧
  (∀ (ch ch' : Channel) (off n : Nat) (v : Bytes), appendBody ch off n v = .ok ch' →
    (ch.fbuf = [] ∨ ∃ A, ch.crcAcc = some A ∧ A ^^^ 0xFFFFFFFF#32 = crc32 ch.fbuf) →
    ∃ A, ch'.crcAcc = some A ∧ A ^^^ 0xFFFFFFFF#32 = crc32 ch'.fbuf) ∧
  (∀ (i : Instr) (s t : State), exec i s = .next t → (t.port s.cur).chan.crcAcc = none)

/-- Recomputing the checksum over the bytes before it gives the stored value, read little-endian (R106). -/
def Obligations.ChecksumRoundTrip : Prop :=
  ∀ (i : Instr) (s : State) (f : Bytes), ReturnsFrame i s f → ∃ b0 b1 b2 b3 : Byte,
    f = f.take (f.length - 4) ++ [b0, b1, b2, b3] ∧
    crc32 (f.take (f.length - 4)) =
      b0.setWidth 32 + b1.setWidth 32 * 0x100#32 + b2.setWidth 32 * 0x10000#32 + b3.setWidth 32 * 0x1000000#32

/-- The CRC of a whole frame is one constant. R107 and the CRC's numbers are the spec's general knowledge, not the source's
(log 1, PRESUMED). -/
def Obligations.FrameResidue : Prop :=
  ∀ (i : Instr) (s : State) (f : Bytes), ReturnsFrame i s f → crc32 f = 0x2144DF1C#32

/-! ### The step and the channels (10_state.md, 42_transmit.md, 60_exceptions.md) -/

/-- A step runs the decoded request: a channel let go in BUSY runs its latched request, by a scripted move or as the lowest
ready channel when nothing is scripted (log 7); and a waiting descriptor that decodes to `i` is latched by an IDLE channel's
move (T1) and run by its next. The waiting list is the model's form of waiting
(log 8), and so are acceptance and the command's own step as two moves (log 19) and an accumulator that holds no value at acceptance
(log 13). -/
def Obligations.StepRunsDecodedRequest : Prop :=
  (∀ (s : State) (c : Nat) (es : List Event) (i : Instr),
    s.inputs = .go c :: es → (s.port c).chan.phase = .busy → (s.port c).chan.latch = some i →
    step s = exec i { s with inputs := es, cur := c }) ∧
  (∀ (s : State) (c : Nat) (i : Instr),
    s.inputs = [] → (s.port c).chan.phase = .busy → (s.port c).chan.latch = some i →
    (∀ c', c' < c → (s.port c').ready = false) → step s = exec i { s with cur := c }) ∧
  (∀ (s : State) (c : Nat) (es : List Event) (d : Bytes) (ds : List Bytes) (i : Instr),
    s.inputs = .go c :: .go c :: es → (s.port c).chan.phase = .idle → (s.port c).waiting = d :: ds → decode d = .ok i →
    ∃ s₁, step s = .next s₁ ∧
      s₁ = { s.setPort c { chan := { phase := .busy, latch := some i, fbuf := [], crcAcc := none }, waiting := ds,
                           responses := (s.port c).responses } with inputs := .go c :: es } ∧
      step s₁ = exec i { s₁ with inputs := es, cur := c })

/-- The host's placement of a word (log 16): the very next step runs the request it decodes to, on channel 0, in a state that
differs from the one given only in that channel's latch and phase. The accumulator without a value is log 13. -/
def Obligations.PlacedWordRuns : Prop :=
  ∀ (s : State) (nbits w : Nat) (i : Instr), decodeTableWord nbits w = some i →
    ∃ u, step (s.withFetchWord nbits w) = exec i u ∧ u.cur = 0 ∧ u.inputs = s.inputs ∧ u.txLog = s.txLog ∧
      u.refusalMark = s.refusalMark ∧
      u.port 0 = { chan := { phase := .busy, latch := some i, fbuf := [], crcAcc := none },
                   waiting := (s.port 0).waiting, responses := (s.port 0).responses } ∧
      ∀ c, c ≠ 0 → u.port c = s.port c

/-- The latch is written only when an IDLE channel accepts a request, whole (R23): any other step keeps it, or ends the
transaction and leaves it holding no value. -/
def Obligations.LatchWrittenOnlyAtAcceptance : Prop :=
  ∀ (s t : State), step s = .next t → ∀ c,
    (t.port c).chan.latch = (s.port c).chan.latch ∨
    ((t.port c).chan.latch = none ∧ (t.port c).chan.phase = .idle) ∨
    ∃ d ds i, (s.port c).chan.phase = .idle ∧ (s.port c).waiting = d :: ds ∧ decode d = .ok i ∧
      (t.port c).chan.latch = some i ∧ (t.port c).chan.phase = .busy

/-- Each step moves each channel by a row of R25's table, with its event or condition and its effect, or holds it. That T4 names
its call by its number in the transmit log, and that only the answer to the channel's own call's number is T5 or T6, is the model's
reading (log 11). So is what the rows leave in the channel beside its phase: T2, T3, T5 and T6 empty FBUF and the latch and T4
empties FBUF (log 12, from R21, R24 and R127), and after each of T1 to T6 the accumulator holds no value, in WAIT_TX too, where
the spec says nothing of it (log 13, from R103). And each step keeps every channel's waiting requests, in order, but for a
descriptor it presents there, which joins them last, and for an IDLE channel's own move, which takes up exactly the head, accepted
or refused (R25, R163; the list is the model's form of waiting, log 8; a refused descriptor leaves it, log 9; whose move it is with
nothing scripted, log 7). -/
def Obligations.MovesFollowTransitionTable : Prop :=
  ∀ (s t : State), step s = .next t → ∀ c, ChannelMove s t c ∧ WaitingMove s t c

/-- A presented descriptor is kept, whatever the channel's phase: it joins the channel's waiting requests, last, and the channel,
its responses, every other port, the transmit log and the mark are as they were (R25, R163: it waits; log 8). -/
def Obligations.PresentedRequestWaits : Prop :=
  ∀ (s : State) (c : Nat) (d : Bytes) (es : List Event), s.inputs = .present c d :: es →
    ∃ t, step s = .next t ∧ (t.port c).waiting = (s.port c).waiting ++ [d] ∧ (t.port c).chan = (s.port c).chan ∧
      (t.port c).responses = (s.port c).responses ∧ (∀ c', c' ≠ c → t.port c' = s.port c') ∧
      t.txLog = s.txLog ∧ t.refusalMark = s.refusalMark ∧ t.inputs = es

/-- The answer to the call a channel waits for ends its SEND with that very answer (R123): the response and its bytes, the log's
record (R32), and the channel IDLE again (R25, T5 and T6); no other channel changes. That an answer names its call by number is the
model's reading (log 11), and so is what the channel holds afterwards: FBUF and the latch emptied (log 12), the accumulator without
a value (log 13). -/
def Obligations.AnswerEndsSendUnchanged : Prop :=
  ∀ (s : State) (k : Nat) (a : TxAnswer) (call : TxCall) (es : List Event),
    s.inputs = .answer k a :: es → s.txLog[k]? = some call → (s.port call.channel).chan.phase = .waitTx k →
    ∃ t, step s = .next t ∧
      (t.port call.channel).chan = { phase := .idle, latch := none, fbuf := [], crcAcc := none } ∧
      (a = .ack → (t.port call.channel).responses = (s.port call.channel).responses ++ [.ack]) ∧
      (∀ e, a = .failure e →
        (t.port call.channel).responses = (s.port call.channel).responses ++ [.error (.transmitFailure e)] ∧
        (Response.error (.transmitFailure e)).encode = 0x02#8 :: Config.encodeTxError e) ∧
      t.txLog = s.txLog.set k { call with answer := some a } ∧
      ∀ c, c ≠ call.channel → t.port c = s.port c

/-- A late answer, to a call no channel waits for, changes nothing (R160: it is dropped; the model's reading, log 11). -/
def Obligations.LateAnswerDropped : Prop :=
  ∀ (s : State) (k : Nat) (a : TxAnswer) (call : TxCall) (es : List Event),
    s.inputs = .answer k a :: es → s.txLog[k]? = some call → (s.port call.channel).chan.phase ≠ .waitTx k →
    step s = .next { s with inputs := es }

/-- A channel in WAIT_TX stays there, its channel record and responses unchanged and no request taken up, through every step
but the answer to its own call and reset (R126). R126 says only 'a transmitter answer or reset': that an answer is to a numbered
call, so that a late answer to an abandoned call does not end a newer SEND, is the model's reading of R160 (log 11). -/
def Obligations.WaitEndsOnlyByAnswerOrReset : Prop :=
  ∀ (s t : State) (c k : Nat), step s = .next t → (s.port c).chan.phase = .waitTx k →
    ((t.port c).chan = (s.port c).chan ∧ (t.port c).responses = (s.port c).responses ∧
      (s.port c).waiting <+: (t.port c).waiting) ∨
    (∃ a es, s.inputs = .answer k a :: es) ∨ (∃ es, s.inputs = .reset :: es)

/-- No retry (R122): an oversize SEND makes no call and any other makes exactly one; and, over the whole machine, a step makes no
call unless it is a BUSY channel's own step of an accepted SEND, which makes one, with that SEND's frame, and leaves the channel
waiting for that call (R25, T4). That it waits for the call by its number in the log is the model's reading (log 11). -/
def Obligations.OneCallPerSend : Prop :=
  (∀ (dst src : HardwareAddress) (proto : ProtocolId) (p : Bytes) (s : State), ∃ t,
    exec (.send dst src proto p) s = .next t ∧
    (1500 < p.length → t.txLog = s.txLog) ∧
    (p.length ≤ 1500 →
      t.txLog = s.txLog ++ [{ channel := s.cur, frame := frameOf dst src proto p, answer := none }])) ∧
  (∀ (s t : State), step s = .next t →
    t.txLog.length = s.txLog.length ∨
    ∃ c dst src proto p, (s.port c).chan.phase = .busy ∧ (s.port c).chan.latch = some (.send dst src proto p) ∧
      p.length ≤ 1500 ∧ t.txLog = s.txLog ++ [{ channel := c, frame := frameOf dst src proto p, answer := none }] ∧
      (t.port c).chan.phase = .waitTx s.txLog.length)

/-- At most one outcome per transaction (R145): a step adds at most one response to a channel, it ends the transaction, a BUILD's
is a frame or OversizePayload, and a SEND's is OversizePayload before the hand-off and the answer after it. What the channel holds
when the transaction has ended is the model's reading: FBUF and the latch emptied (log 12), the accumulator without a value
(log 13). -/
def Obligations.OneOutcomePerTransaction : Prop :=
  ∀ (s t : State), step s = .next t → ∀ c,
    (t.port c).responses = (s.port c).responses ∨
    ∃ r, (t.port c).responses = (s.port c).responses ++ [r] ∧
      (t.port c).chan = { phase := .idle, latch := none, fbuf := [], crcAcc := none } ∧
      (((s.port c).chan.phase = .busy ∧
          ((∃ dst src proto p, (s.port c).chan.latch = some (.build dst src proto p) ∧
              (r = .error .oversizePayload ∨ ∃ f, r = .frame f)) ∨
           (∃ dst src proto p, (s.port c).chan.latch = some (.send dst src proto p) ∧ r = .error .oversizePayload))) ∨
       (∃ k, (s.port c).chan.phase = .waitTx k ∧ (r = .ack ∨ ∃ e, r = .error (.transmitFailure e))))

/-- Reset (R160): every channel goes to its reset values at once with no response, the transmit log is left as it was, and in the
state right after it an answer to any call already made is dropped. That a dropped answer changes nothing, so that the log does not
record it, is the model's reading (log 11). For the states after that one see AbandonedCallStaysAbandoned. -/
def Obligations.ResetAbandonsTransactions : Prop :=
  ∀ (s : State) (es : List Event), s.inputs = .reset :: es →
    ∃ t, step s = .next t ∧ t.inputs = es ∧ t.txLog = s.txLog ∧
      (∀ c, (t.port c).chan = { phase := .idle, latch := none, fbuf := [], crcAcc := none } ∧
        (t.port c).responses = (s.port c).responses) ∧
      ∀ k a, k < t.txLog.length → answerCall t k a = .next t

/-- A call that is in the transmit log and that no channel waits for, such as any call made before a reset, is waited for by no
channel after any step, so its late answer is dropped whenever it comes (R160 item 4, with LateAnswerDropped; calls told apart by
number, log 11). -/
def Obligations.AbandonedCallStaysAbandoned : Prop :=
  ∀ (s t : State) (k : Nat), step s = .next t → k < s.txLog.length →
    (∀ c, (s.port c).chan.phase ≠ .waitTx k) →
    k < t.txLog.length ∧ ∀ c, (t.port c).chan.phase ≠ .waitTx k

/-- The values after reset (R33), of every channel. -/
def Obligations.ResetValues : Prop :=
  ∀ c, (State.reset.port c).chan.phase = .idle ∧ (State.reset.port c).chan.latch = none ∧
    (State.reset.port c).chan.fbuf = [] ∧ (State.reset.port c).chan.crcAcc = none

/-- Reading the latch where it holds no value faults (92 D21, R33). No run reaches this: see StepNeverStops. -/
def Obligations.EmptyLatchReadFaults : Prop :=
  ∀ (s : State) (c : Nat) (es : List Event),
    s.inputs = .go c :: es → (s.port c).chan.phase = .busy → (s.port c).chan.latch = none → step s = .fault .latchEmpty

/-! ### Invariants, isolation, progress -/

/-- Every step keeps the invariant: FBUF and the accumulator empty between steps, a latched value exactly outside IDLE, each
waiting channel a SEND whose own unanswered call carries the frame of its latched operands, and only whole frames in the log and
in the responses (R21, R24, R25, R46). That FBUF is empty between steps is the model's reading of R24 and R127 (log 12), and that
the accumulator holds no value between steps, in WAIT_TX too, is the model's (log 13; R33 and R103 give it none at reset and carry
none from one transaction to the next). -/
def Obligations.StepKeepsInvariant : Prop :=
  ∀ (s t : State), s.Inv → step s = .next t → t.Inv

/-- The state after reset meets the invariant, and is a state of a block with any number of channels (R33, R21). -/
def Obligations.ResetMeetsInvariant : Prop :=
  State.reset.Inv ∧ ∀ n, 1 ≤ n → State.reset.withinChannels n

/-- From a state of the invariant no step stops, if a scripted answer is to a call that was made (log 17). -/
def Obligations.StepNeverStops : Prop :=
  ∀ s : State, s.Inv → s.nextAnswersMade → ∃ t, step s = .next t

/-- A block with `n` channels stays one (R154; NUM_CHANNELS as an argument, log 2). -/
def Obligations.StepKeepsChannelCount : Prop :=
  ∀ (n : Nat) (s t : State), s.withinChannels n → step s = .next t → t.withinChannels n

/-- A channel's scripted move reads and changes nothing of another channel (R49): two states that agree on channel `c` agree on it
after its move, but for the number of a call just made, whatever else differs; and every other channel is as it was. The call's number is the
model's (log 11). -/
def Obligations.ChannelMoveIsPrivate : Prop :=
  ∀ (s t s' t' : State) (c : Nat) (es fs : List Event),
    s.inputs = .go c :: es → t.inputs = .go c :: fs → s.port c = t.port c →
    step s = .next s' → step t = .next t' →
    (s'.port c).forgetCall = (t'.port c).forgetCall ∧
    (∀ c', c' ≠ c → s'.port c' = s.port c') ∧
    ∃ handed, s'.txLog.map TxCall.frame = s.txLog.map TxCall.frame ++ handed ∧
      t'.txLog.map TxCall.frame = t.txLog.map TxCall.frame ++ handed

/-- Two scripted moves, of two channels, in either order leave every channel the same, but for the numbers of calls made, and the transmit log
the same up to order (R49, 92 D9). The calls' numbers are the model's (log 11). -/
def Obligations.MovesOfTwoChannelsCommute : Prop :=
  ∀ (s : State) (c c' : Nat) (es : List Event), s.Inv → c ≠ c' →
    ∃ t u, Sys2Proof.core.run 2 { s with inputs := .go c :: .go c' :: es } = .next t ∧
      Sys2Proof.core.run 2 { s with inputs := .go c' :: .go c :: es } = .next u ∧
      (∀ d, (State.port t d).forgetCall = (State.port u d).forgetCall) ∧
      (State.txLog t).Perm (State.txLog u) ∧ State.refusalMark t = State.refusalMark u ∧
      State.inputs t = es ∧ State.inputs u = es

/-- Entries of the transmit log keep their channel, frame and recorded answer for ever, and the refusal mark stays set (R32, R65,
R165). -/
def Obligations.LogEntriesStay : Prop :=
  ∀ (s t : State), s.Inv → step s = .next t →
    (∀ (k : Nat) (call : TxCall), s.txLog[k]? = some call → ∃ call' : TxCall, t.txLog[k]? = some call' ∧ call'.channel = call.channel ∧
      call'.frame = call.frame ∧ (∀ a, call.answer = some a → call'.answer = some a)) ∧
    (t.unmarked → s.unmarked)

/-- Progress (R168): with nothing scripted, the block by itself reaches, in at most `workOf` steps, a state where no channel is
BUSY and no IDLE channel has a request waiting. That the block moves by itself when nothing is scripted, the lowest-numbered ready
channel first, is the model's choice (log 7). The list of waiting requests is the model's form of waiting (log 8); that a refused
descriptor leaves it, so that none stays at an IDLE channel, is the model's reading (log 9; R65 does not say so); and so is the
bound, two steps for a waiting request, acceptance and the command's own step, and one for a BUSY channel (log 19). -/
def Obligations.OwnStepsFinish : Prop :=
  ∀ s : State, s.Inv → s.inputs = [] →
    ∃ k t, k ≤ workOf s.ports ∧ Sys2Proof.core.run k s = .next t ∧ State.inputs t = [] ∧
      ∀ c, (State.port t c).chan.phase ≠ .busy ∧
        ((State.port t c).chan.phase = .idle → (State.port t c).waiting = [])

/-- A run that is over stays over: with no event, no request and no answer due, nothing changes (R156, 92 D15). -/
def Obligations.FinishedRunHolds : Prop :=
  ∀ s : State, s.runOver = true → step s = .next s

/-- Commands on one channel run in the order presented (R27): any list of BUILDs waiting at an IDLE channel is answered one by
one, in that order, each by its own operands alone, two moves each. Of SENDs among them it says nothing (see
SendTransactionRuns for one). The waiting list is the model's form of waiting (log 8), and so are the two moves, acceptance and the
command's own step (log 19), and what the channel holds after each response: FBUF and the latch emptied (log 12, from R21 and R24)
and the accumulator without a value (log 13, from R103). -/
def Obligations.BuildsAnsweredInOrder : Prop :=
  ∀ (reqs : List (HardwareAddress × HardwareAddress × ProtocolId × Bytes)) (s : State) (c : Nat),
    (∀ q ∈ reqs, q.2.2.2.length ≤ 65535) →
    (s.port c).chan = Channel.reset →
    (s.port c).waiting = reqs.map (fun q => encode (.build q.1 q.2.1 q.2.2.1 q.2.2.2)) →
    s.inputs = List.replicate (2 * reqs.length) (.go c) →
    ∃ t, Sys2Proof.core.run (2 * reqs.length) s = .next t ∧
      State.port t c = {
        chan := Channel.reset
        waiting := []
        responses := (s.port c).responses ++ reqs.map (fun q => buildResponse q.1 q.2.1 q.2.2.1 q.2.2.2) } ∧
      State.txLog t = s.txLog ∧ State.refusalMark t = s.refusalMark ∧ ∀ c', c' ≠ c → State.port t c' = s.port c'

/-- A whole SEND (R120): presented on an IDLE channel, accepted, built and handed over, and answered: one call is logged, with
the frame and the answer, and the one response is the answer's. That the answer names its call by its number, its place in the
transmit log, is the model's reading (log 11), and so is what the channel holds at the end: FBUF and the latch emptied (log 12,
from R21, R24 and R127) and the accumulator without a value (log 13, from R103); the waiting list is log 8, and acceptance and the
command's own step as two moves log 19. -/
def Obligations.SendTransactionRuns : Prop :=
  ∀ (dst src : HardwareAddress) (proto : ProtocolId) (p : Bytes) (a : TxAnswer) (s : State) (c : Nat) (es : List Event),
    p.length ≤ 1500 → (s.port c).chan = Channel.reset → (s.port c).waiting = [] →
    s.inputs = .present c (encode (.send dst src proto p)) :: .go c :: .go c :: .answer s.txLog.length a :: es →
    ∃ t, Sys2Proof.core.run 4 s = .next t ∧
      State.port t c = { chan := Channel.reset, waiting := [],
                         responses := (s.port c).responses ++ [answerResponse a] } ∧
      State.txLog t = s.txLog ++ [{ channel := c, frame := frameOf dst src proto p, answer := some a }] ∧
      State.inputs t = es ∧ State.refusalMark t = s.refusalMark ∧ ∀ c', c' ≠ c → State.port t c' = s.port c'
end

