-- ==== Sys2Proof/Laws/Crc.lean ====
section
/-! SUPPORT. How the CRC register runs along a sequence. -/

namespace Sys2Proof

@[simp] theorem crcBytes_nil (r : Word) : crcBytes r [] = r := rfl

@[simp] theorem crcBytes_cons (r : Word) (b : Byte) (s : Bytes) : crcBytes r (b :: s) = crcBytes (crcByte r b) s := rfl

theorem crcBytes_append (r : Word) (s t : Bytes) : crcBytes r (s ++ t) = crcBytes (crcBytes r s) t :=
  List.foldl_append

/-- The accumulator that has followed a body holds the register of R101 over it. -/
theorem crcFollow_eq (before v : Bytes) (acc : Option Word)
    (h : before ≠ [] → acc = some (crcBytes crcInit before)) :
    crcFollow before acc v = some (crcBytes crcInit (before ++ v)) := by
  cases before with
  | nil => rfl
  | cons b bs => simp [crcFollow, h, crcBytes_append]

end Sys2Proof
end

