-- ==== Sys2Proof/Laws/Decode.lean ====
section
/-! SUPPORT. When the decoder accepts, and the parts of the encoder (spec/30_encoding.md R60 to R65). -/

namespace Sys2Proof

@[simp] theorem Command.ofCode_code (c : Command) : Command.ofCode c.code = some c := by cases c <;> decide

theorem Command.ofCode_eq_some (b : Byte) (c : Command) : Command.ofCode b = some c ↔ b = c.code := by
  constructor
  · unfold Command.ofCode
    split
    · rintro ⟨⟩; assumption
    · split
      · rintro ⟨⟩; assumption
      · rintro ⟨⟩
  · rintro rfl; exact Command.ofCode_code c

theorem Command.ofCode_eq_none (b : Byte) : Command.ofCode b = none ↔ b ≠ 0x01#8 ∧ b ≠ 0x02#8 := by
  unfold Command.ofCode
  split
  · simp_all
  · split <;> simp_all

@[simp] theorem Instr.ofCommand_fields (i : Instr) : Instr.ofCommand i.op i.dst i.src i.proto i.payload = i := by
  cases i <;> rfl

@[simp] theorem Instr.op_ofCommand (c : Command) (d s : HardwareAddress) (p : ProtocolId) (b : Bytes) :
    (Instr.ofCommand c d s p b).op = c := by cases c <;> rfl
@[simp] theorem Instr.dst_ofCommand (c : Command) (d s : HardwareAddress) (p : ProtocolId) (b : Bytes) :
    (Instr.ofCommand c d s p b).dst = d := by cases c <;> rfl
@[simp] theorem Instr.src_ofCommand (c : Command) (d s : HardwareAddress) (p : ProtocolId) (b : Bytes) :
    (Instr.ofCommand c d s p b).src = s := by cases c <;> rfl
@[simp] theorem Instr.proto_ofCommand (c : Command) (d s : HardwareAddress) (p : ProtocolId) (b : Bytes) :
    (Instr.ofCommand c d s p b).proto = p := by cases c <;> rfl
@[simp] theorem Instr.payload_ofCommand (c : Command) (d s : HardwareAddress) (p : ProtocolId) (b : Bytes) :
    (Instr.ofCommand c d s p b).payload = b := by cases c <;> rfl

/-- The two bytes of a number that fits 16 bits read back as that number (R43). -/
theorem fromBe16_be16 (n : Nat) (h : n ≤ maxPlen) :
    fromBe16 ((BitVec.ofNat 16 n).extractLsb' 8 8) ((BitVec.ofNat 16 n).extractLsb' 0 8) = n := by
  simp only [maxPlen] at h
  simp [fromBe16, BitVec.extractLsb'_toNat, Nat.shiftRight_eq_div_pow]
  omega

/-- A descriptor is one byte, sixteen fixed bytes and the payload (R60). -/
theorem length_encode (i : Instr) : (encode i).length = fixedPart + i.payload.length := by
  simp [encode, HardwareAddress.toBytes, ProtocolId.toBytes, be16, fixedPart]
  omega

/-- Exactly when the decoder accepts, and what it then gives (R65's last row). -/
theorem decode_ok_iff (d : Bytes) (i : Instr) :
    decode d = .ok i ↔
      ∃ c rest, d = Command.code c :: rest ∧ fixedPart ≤ d.length ∧ d.length = fixedPart + plenOf d ∧
        i = Instr.ofCommand c (dstOf d) (srcOf d) (protoOf d) (payloadOf d) := by
  cases d with
  | nil => simp [decode]
  | cons op rest =>
    simp only [decode]
    cases hc : Command.ofCode op with
    | none =>
      simp only [reduceCtorEq, List.cons.injEq, false_iff]
      rintro ⟨c, r, ⟨rfl, rfl⟩, -⟩
      simp at hc
    | some c =>
      obtain rfl := (Command.ofCode_eq_some op c).1 hc
      simp only []
      split
      · rename_i h
        simp only [reduceCtorEq, false_iff]
        rintro ⟨c', r, -, h', -⟩
        omega
      · split
        · rename_i h
          simp only [reduceCtorEq, false_iff]
          rintro ⟨c', r, -, -, h', -⟩
          exact h h'
        · rename_i h1 h2
          constructor
          · rintro ⟨⟩
            exact ⟨c, rest, rfl, by omega, not_not.1 h2, rfl⟩
          · rintro ⟨c', r, hd, -, -, rfl⟩
            have : c' = c := by
              have hh : c'.code = c.code := (List.cons.inj hd).1.symm
              have := Command.ofCode_code c'
              rw [hh, Command.ofCode_code] at this
              exact (Option.some.inj this).symm
            rw [this]

end Sys2Proof
end

