-- ==== Sys2Proof/Laws/State.lean ====
section
/-! SUPPORT. What each update of the state leaves and changes, field by field, so that no later proof unfolds one. -/

namespace Sys2Proof.Machine

@[simp] theorem portAt_nil (c : Nat) : portAt [] c = Port.reset := by cases c <;> rfl

@[simp] theorem portAt_setPortAt_same (ps : List Port) (c : Nat) (p : Port) : portAt (setPortAt ps c p) c = p := by
  induction ps, c, p using setPortAt.induct <;> simp_all [setPortAt, portAt]

@[simp] theorem portAt_setPortAt_other (ps : List Port) (c c' : Nat) (p : Port) (h : c' ≠ c) :
    portAt (setPortAt ps c p) c' = portAt ps c' := by
  induction ps, c, p using setPortAt.induct generalizing c' with
  | case1 p => cases c' <;> simp_all [setPortAt, portAt]
  | case2 c p ih =>
    cases c' with
    | zero => simp [setPortAt, portAt]
    | succ n => simpa [setPortAt, portAt] using ih n (by omega)
  | case3 p q ps => cases c' <;> simp_all [setPortAt, portAt]
  | case4 q ps c p ih =>
    cases c' with
    | zero => simp [setPortAt, portAt]
    | succ n => simpa [setPortAt, portAt] using ih n (by omega)

theorem length_setPortAt (ps : List Port) (c : Nat) (p : Port) :
    (setPortAt ps c p).length = max ps.length (c + 1) := by
  induction ps, c, p using setPortAt.induct <;> simp_all [setPortAt]

theorem portAt_map_resetPort (ps : List Port) (c : Nat) : portAt (ps.map resetPort) c = resetPort (portAt ps c) := by
  induction ps generalizing c with
  | nil => rw [List.map_nil, portAt_nil]; rfl
  | cons p ps ih => cases c <;> simp [portAt, ih]

/-- A port's place in the list does not matter past its end. -/
theorem portAt_of_length_le (ps : List Port) (c : Nat) (h : ps.length ≤ c) : portAt ps c = Port.reset := by
  induction ps generalizing c with
  | nil => simp
  | cons p ps ih =>
    cases c with
    | zero => simp at h
    | succ c => exact ih c (by simpa using h)

section setPort
variable (s : State) (c c' : Nat) (p : Port)

@[simp] theorem State.port_setPort_same : (s.setPort c p).port c = p := portAt_setPortAt_same _ _ _
@[simp] theorem State.port_setPort_other (h : c' ≠ c) : (s.setPort c p).port c' = s.port c' :=
  portAt_setPortAt_other _ _ _ _ h
@[simp] theorem State.setPort_cur : (s.setPort c p).cur = s.cur := rfl
@[simp] theorem State.setPort_txLog : (s.setPort c p).txLog = s.txLog := rfl
@[simp] theorem State.setPort_refusalMark : (s.setPort c p).refusalMark = s.refusalMark := rfl
@[simp] theorem State.setPort_inputs : (s.setPort c p).inputs = s.inputs := rfl
theorem State.setPort_ports : (s.setPort c p).ports = setPortAt s.ports c p := rfl

end setPort

/-! The port of a state whose other fields were replaced: one spelling, `s.port c`. -/

@[simp] theorem State.port_mk (ps : List Port) (n : Nat) (l : List TxCall) (b : Bool) (es : List Event) (c : Nat) :
    State.port { ports := ps, cur := n, txLog := l, refusalMark := b, inputs := es } c = portAt ps c := rfl

@[simp] theorem State.portAt_ports (s : State) (c : Nat) : portAt s.ports c = s.port c := rfl

section respond
variable (s : State) (r : Response)

@[simp] theorem respond_port_cur : (respond s r).port s.cur =
    { chan := Channel.reset, waiting := (s.port s.cur).waiting, responses := (s.port s.cur).responses ++ [r] } := by
  simp [respond]
@[simp] theorem respond_port_other (c : Nat) (h : c ≠ s.cur) : (respond s r).port c = s.port c := by simp [respond, h]
@[simp] theorem respond_cur : (respond s r).cur = s.cur := rfl
@[simp] theorem respond_txLog : (respond s r).txLog = s.txLog := rfl
@[simp] theorem respond_refusalMark : (respond s r).refusalMark = s.refusalMark := rfl
@[simp] theorem respond_inputs : (respond s r).inputs = s.inputs := rfl

end respond

section transmit
variable (s : State) (f : Bytes)

@[simp] theorem transmit_port_cur : (transmit s f).port s.cur =
    { chan := { phase := .waitTx s.txLog.length, latch := (s.port s.cur).chan.latch, fbuf := [], crcAcc := none },
      waiting := (s.port s.cur).waiting, responses := (s.port s.cur).responses } := by
  simp only [transmit, State.port_mk, State.portAt_ports, State.port_setPort_same]
@[simp] theorem transmit_port_other (c : Nat) (h : c ≠ s.cur) : (transmit s f).port c = s.port c := by
  simp only [transmit, State.port_mk, State.portAt_ports, State.port_setPort_other _ _ _ _ h]
@[simp] theorem transmit_cur : (transmit s f).cur = s.cur := rfl
@[simp] theorem transmit_txLog :
    (transmit s f).txLog = s.txLog ++ [{ channel := s.cur, frame := f, answer := none }] := rfl
@[simp] theorem transmit_refusalMark : (transmit s f).refusalMark = s.refusalMark := rfl
@[simp] theorem transmit_inputs : (transmit s f).inputs = s.inputs := rfl

end transmit

section reset
variable (s : State)

@[simp] theorem resetBlock_port (c : Nat) : (resetBlock s).port c = resetPort (s.port c) := portAt_map_resetPort _ _
@[simp] theorem resetBlock_cur : (resetBlock s).cur = s.cur := rfl
@[simp] theorem resetBlock_txLog : (resetBlock s).txLog = s.txLog := rfl
@[simp] theorem resetBlock_refusalMark : (resetBlock s).refusalMark = s.refusalMark := rfl
@[simp] theorem resetBlock_inputs : (resetBlock s).inputs = s.inputs := rfl

@[simp] theorem State.reset_port (c : Nat) : State.reset.port c = Port.reset := portAt_nil c

end reset

@[simp] theorem raiseError_eq (s : State) (k : ErrorKind) : raiseError s k = respond s (.error k) := rfl

end Sys2Proof.Machine
end

