-- ==== Sys2Proof/Laws/Ops.lean ====
section
/-! SUPPORT. Everything MemRead and MemWrite can do (spec/20_memory.md R40, R45). -/

namespace Sys2Proof.Machine

theorem memRead_ok_iff (x : Instr) (ch : Channel) (sp : Space) (off n : Nat) (v : Bytes) :
    memRead x ch sp off n = .ok v ↔
      off + n ≤ (spaceBytes x ch sp).length ∧ v = slice (spaceBytes x ch sp) off (off + n) := by
  unfold memRead
  split <;> simp_all [eq_comm]

/-- Reading a whole space gives it back. -/
theorem memRead_all (x : Instr) (ch : Channel) (sp : Space) :
    memRead x ch sp 0 (spaceBytes x ch sp).length = .ok (spaceBytes x ch sp) := by
  simp [memRead_ok_iff, slice]

theorem memWrite_ok_iff (ch ch' : Channel) (sp : Space) (off n : Nat) (v : Bytes) :
    memWrite ch sp off n v = .ok ch' ↔
      sp = .fbuf ∧ off = ch.fbuf.length ∧ v.length = n ∧ ch' = { ch with fbuf := ch.fbuf ++ v } := by
  unfold memWrite
  cases sp
  · simp
  · simp only
    split
    · rename_i h
      simp [h, eq_comm]
    · rename_i h
      simp only [reduceCtorEq, true_and, false_iff]
      rintro ⟨h1, h2, -⟩
      exact h ⟨h1, h2⟩

end Sys2Proof.Machine
end

