-- ==== Sys2Proof/Laws/Frame.lean ====
section
/-! SUPPORT. What the assembler's and the framer's steps do, and that none of them stops (spec/40_frame_assembly.md R82 to R85,
spec/41_crc32_framer.md R103 to R105). -/

namespace Sys2Proof.Machine

@[simp] theorem length_addressBytes (a : HardwareAddress) : a.toBytes.length = 6 := rfl
@[simp] theorem length_protocolBytes (p : ProtocolId) : p.toBytes.length = 2 := rfl
@[simp] theorem length_zeros (n : Nat) : (zeros n).length = n := List.length_replicate
@[simp] theorem length_le32 (v : Word) : (le32 v).length = 4 := rfl
@[simp] theorem length_be16 (v : Half) : (be16 v).length = 2 := rfl

theorem oversize_iff (p : Bytes) : oversize p = true ↔ maxPayload < p.length := decide_eq_true_iff

theorem length_bodyOf (dst src : HardwareAddress) (proto : ProtocolId) (p : Bytes) :
    (bodyOf dst src proto p).length = 14 + max p.length 46 := by
  simp only [bodyOf, List.length_append, length_addressBytes, length_protocolBytes, length_zeros, minData]
  omega

theorem length_frameOf (dst src : HardwareAddress) (proto : ProtocolId) (p : Bytes) :
    (frameOf dst src proto p).length = 14 + max p.length 46 + 4 := by
  simp [frameOf, length_bodyOf]

/-- A channel whose accumulator has followed its FBUF. -/
def Followed (ch : Channel) : Prop := ch.fbuf ≠ [] → ch.crcAcc = some (crcBytes crcInit ch.fbuf)

/-- The channel after body bytes `v`: FBUF longer by `v`, the accumulator along with it. -/
def Channel.extended (ch : Channel) (v : Bytes) : Channel :=
  { ch with fbuf := ch.fbuf ++ v, crcAcc := some (crcBytes crcInit (ch.fbuf ++ v)) }

theorem followed_extended (ch : Channel) (v : Bytes) : Followed (ch.extended v) := fun _ => rfl

theorem followed_startFrame (ch : Channel) : Followed (startFrame ch) := fun h => absurd rfl h

theorem extended_extended (ch : Channel) (v w : Bytes) : (ch.extended v).extended w = ch.extended (v ++ w) := by
  simp [Channel.extended]

theorem appendBody_ok (ch : Channel) (off n : Nat) (v : Bytes) (hoff : off = ch.fbuf.length) (hn : v.length = n)
    (hf : Followed ch) : appendBody ch off n v = .ok (ch.extended v) := by
  have hw : memWrite ch .fbuf off n v = .ok { ch with fbuf := ch.fbuf ++ v } := by
    simp [memWrite_ok_iff, hoff, hn]
  simp [appendBody, hw, Channel.extended, crcFollow_eq _ _ _ hf]

theorem appendHeader_ok (x : Instr) (ch : Channel) (h : ch.fbuf = []) :
    appendHeader x ch = .ok (ch.extended (x.dst.toBytes ++ x.src.toBytes ++ x.proto.toBytes)) := by
  have hf : Followed ch := fun hne => absurd h hne
  unfold appendHeader
  rw [appendBody_ok ch 0 addrLen _ (by simp [h]) rfl hf]
  simp only [bind, Except.bind]
  rw [appendBody_ok _ addrLen addrLen _ (by simp [Channel.extended, h, addrLen]) rfl (followed_extended _ _)]
  simp only []
  rw [appendBody_ok _ (2 * addrLen) protoLen _ (by simp [Channel.extended, h, addrLen]) rfl (followed_extended _ _)]
  simp [extended_extended]

theorem appendPayload_ok (x : Instr) (ch : Channel) (h : ch.fbuf.length = hdrLen) (hf : Followed ch) :
    appendPayload x ch = .ok (ch.extended x.payload) := by
  unfold appendPayload
  rw [show memRead x ch .pay 0 x.payload.length = .ok x.payload from memRead_all x ch .pay]
  exact appendBody_ok _ _ _ _ h.symm rfl hf

theorem appendPadding_ok (x : Instr) (ch : Channel) (h : ch.fbuf.length = hdrLen + x.payload.length) (hf : Followed ch) :
    appendPadding x ch =
      .ok (if x.payload.length < minData then ch.extended (zeros (minData - x.payload.length)) else ch) := by
  unfold appendPadding
  split
  · exact appendBody_ok _ _ _ _ h.symm (length_zeros _) hf
  · rfl

/-- The assembler fills FBUF with R80's body, and the accumulator holds the register over it. -/
theorem assembleBody_ok (x : Instr) (ch : Channel) :
    assembleBody x ch = .ok ((startFrame ch).extended (bodyOf x.dst x.src x.proto x.payload)) := by
  unfold assembleBody
  rw [appendHeader_ok x _ rfl]
  simp only [bind, Except.bind]
  rw [appendPayload_ok _ _ (by simp [Channel.extended, startFrame, hdrLen]) (followed_extended _ _)]
  simp only []
  rw [appendPadding_ok _ _ (by simp [Channel.extended, startFrame, hdrLen]; omega)
    (followed_extended _ _)]
  by_cases h : x.payload.length < minData
  · rw [if_pos h, extended_extended, extended_extended, bodyOf, max_eq_right (by omega), List.append_assoc _ x.payload]
  · rw [if_neg h, extended_extended, bodyOf, max_eq_left (by omega), Nat.sub_self]
    simp [zeros]

theorem appendFcs_ok (x : Instr) (ch : Channel) :
    appendFcs x ch = .ok { ch with fbuf := ch.fbuf ++ le32 (crc32 ch.fbuf) } := by
  unfold appendFcs
  rw [show memRead x ch .fbuf 0 ch.fbuf.length = .ok ch.fbuf from memRead_all x ch .fbuf]
  exact (memWrite_ok_iff _ _ _ _ _ _).2 ⟨rfl, rfl, rfl, rfl⟩

/-- The steps over FBUF never stop, and leave R80's frame there. -/
theorem buildFrame_ok (x : Instr) (ch : Channel) :
    ∃ ch', buildFrame x ch = .ok ch' ∧ ch'.fbuf = frameOf x.dst x.src x.proto x.payload := by
  refine ⟨{ (startFrame ch).extended (bodyOf x.dst x.src x.proto x.payload) with
    fbuf := frameOf x.dst x.src x.proto x.payload }, ?_, rfl⟩
  unfold buildFrame
  rw [assembleBody_ok]
  exact appendFcs_ok _ _

end Sys2Proof.Machine
end

