-- ==== Sys2Proof/Laws/PerInstr.lean ====
section
/-! SUPPORT. Facts about each command as syntax, one lemma a constructor. -/

namespace Sys2Proof.Laws.DescriptorLength

/-- A command's descriptor is `17 + L` bytes long and begins with its own code (R60, R62). -/
def Statement (i : Instr) : Prop :=
  (encode i).length = fixedPart + i.payload.length ∧ (encode i).head? = some i.op.code

theorem build (dst src : HardwareAddress) (proto : ProtocolId) (payload : Bytes) :
    Statement (.build dst src proto payload) := ⟨length_encode _, rfl⟩

theorem send (dst src : HardwareAddress) (proto : ProtocolId) (payload : Bytes) :
    Statement (.send dst src proto payload) := ⟨length_encode _, rfl⟩

end Sys2Proof.Laws.DescriptorLength
end

