-- ==== Sys2Proof/Laws/Step.lean ====
section
/-! SUPPORT. Everything the parts of a step can do, said once: taking up a descriptor, an answer, a channel's move, and the choice
of the next mover. -/

namespace Sys2Proof.Machine

/-! Presenting a descriptor changes the requester's list of one port, and nothing else. -/

@[simp] theorem presentRequest_port_same (s : State) (c : Nat) (d : Bytes) : (presentRequest s c d).port c =
    { s.port c with waiting := (s.port c).waiting ++ [d] } := by simp [presentRequest]
@[simp] theorem presentRequest_port_other (s : State) (c c' : Nat) (d : Bytes) (h : c' ≠ c) :
    (presentRequest s c d).port c' = s.port c' := by simp [presentRequest, h]
@[simp] theorem presentRequest_cur (s : State) (c : Nat) (d : Bytes) : (presentRequest s c d).cur = s.cur := rfl
@[simp] theorem presentRequest_txLog (s : State) (c : Nat) (d : Bytes) : (presentRequest s c d).txLog = s.txLog := rfl
@[simp] theorem presentRequest_refusalMark (s : State) (c : Nat) (d : Bytes) :
    (presentRequest s c d).refusalMark = s.refusalMark := rfl
@[simp] theorem presentRequest_inputs (s : State) (c : Nat) (d : Bytes) : (presentRequest s c d).inputs = s.inputs := rfl

/-- Taking up a descriptor: nothing waits, or it is accepted (T1), or it is refused (R65). -/
theorem takeUp_cases (s : State) (c : Nat) :
    ((s.port c).waiting = [] ∧ takeUp s c = s) ∨
    (∃ d ds i, (s.port c).waiting = d :: ds ∧ decode d = .ok i ∧
      takeUp s c = s.setPort c { s.port c with chan := Channel.accepted i, waiting := ds }) ∨
    (∃ d ds r, (s.port c).waiting = d :: ds ∧ decode d = .error r ∧
      takeUp s c = { s.setPort c { s.port c with waiting := ds } with refusalMark := true }) := by
  cases hw : (s.port c).waiting with
  | nil => exact .inl ⟨rfl, by simp only [takeUp, hw]⟩
  | cons d ds =>
    cases hd : decode d with
    | ok i => exact .inr (.inl ⟨d, ds, i, rfl, hd, by simp only [takeUp, hw, hd]⟩)
    | error r => exact .inr (.inr ⟨d, ds, r, rfl, hd, by simp only [takeUp, hw, hd]⟩)

/-- An answer: to no call, or to the call its channel waits for (T5, T6), or dropped (R160). -/
theorem answerCall_cases (s : State) (k : Nat) (a : TxAnswer) :
    (s.txLog[k]? = none ∧ answerCall s k a = .fault .noSuchCall) ∨
    (∃ call, s.txLog[k]? = some call ∧ (s.port call.channel).chan.phase = .waitTx k ∧
      answerCall s k a =
        .next (finishSend { s with cur := call.channel, txLog := s.txLog.set k { call with answer := some a } } a)) ∨
    (∃ call, s.txLog[k]? = some call ∧ (s.port call.channel).chan.phase ≠ .waitTx k ∧ answerCall s k a = .next s) := by
  unfold answerCall
  cases hk : s.txLog[k]? with
  | none => exact .inl ⟨rfl, rfl⟩
  | some call =>
    by_cases hp : (s.port call.channel).chan.phase = .waitTx k
    · exact .inr (.inl ⟨call, rfl, hp, by simp only [hp, if_true]⟩)
    · exact .inr (.inr ⟨call, rfl, hp, by simp only [hp, if_false]⟩)

/-- Ending a SEND is ending the transaction with the answer's response. -/
theorem finishSend_eq (s : State) (a : TxAnswer) : finishSend s a = respond s (answerResponse a) := by cases a <;> rfl

@[simp] theorem goChannel_idle (s : State) (c : Nat) (h : (s.port c).chan.phase = .idle) :
    goChannel s c = .next (takeUp s c) := by simp [goChannel, h]

@[simp] theorem goChannel_waitTx (s : State) (c k : Nat) (h : (s.port c).chan.phase = .waitTx k) :
    goChannel s c = .next s := by simp [goChannel, h]

/-- The chosen mover is ready, and is a channel of the list. -/
theorem firstReady_some (ps : List Port) (b c : Nat) (h : firstReady ps b = some c) :
    ∃ n, c = b + n ∧ n < ps.length ∧ (portAt ps n).ready = true := by
  induction ps generalizing b with
  | nil => simp [firstReady] at h
  | cons p ps ih =>
    unfold firstReady at h
    split at h
    · rename_i hp
      exact ⟨0, by simpa using h.symm, by simp, by simpa [portAt] using hp⟩
    · obtain ⟨n, rfl, hn, hr⟩ := ih _ h
      exact ⟨n + 1, by omega, by simpa using hn, by simpa [portAt] using hr⟩

/-- With no mover, no channel is ready. -/
theorem firstReady_none (ps : List Port) (b : Nat) (h : firstReady ps b = none) (n : Nat) : (portAt ps n).ready = false := by
  induction ps generalizing b n with
  | nil => simp; rfl
  | cons p ps ih =>
    unfold firstReady at h
    split at h
    · simp at h
    · rename_i hp
      cases n with
      | zero => simpa [portAt] using hp
      | succ n => simpa [portAt] using ih _ h n

/-- A step with an event scripted applies it. -/
theorem step_event (s : State) (e : Event) (es : List Event) (h : s.inputs = e :: es) :
    step s = applyEvent { s with inputs := es } e := by simp [step, h]

/-- A step with no event scripted is the block's own. -/
theorem step_own (s : State) (h : s.inputs = []) : step s = ownStep s := by simp [step, h]

end Sys2Proof.Machine
end

