-- ==== Sys2Proof/Tests/Slice0.lean ====
section
/-! SUPPORT. Checks of the model against the vectors of spec/95_test_vectors.md (each names its vector), the smoke test of
WellFormed, and, for every statement with hypotheses, a state and operands that meet them. -/

namespace Sys2Proof.Tests

open Sys2Proof Sys2Proof.Machine

/-! ### The operands of V1 -/

def catDst : HardwareAddress := ⟨0x14, 0xb3, 0x1f, 0x23, 0x8c, 0xc6⟩
def catSrc : HardwareAddress := ⟨0x00, 0x11, 0x22, 0x33, 0x44, 0x55⟩
def catProto : ProtocolId := ⟨0x88, 0xb5⟩
def cat : Bytes := [0x63, 0x61, 0x74]
def catBuild : Instr := .build catDst catSrc catProto cat
def catSend : Instr := .send catDst catSrc catProto cat

/-- The fifteen bytes of V1's descriptor before PLEN, with the command code `op`. -/
def catHead (op : Byte) : Bytes :=
  [op, 0x14, 0xb3, 0x1f, 0x23, 0x8c, 0xc6, 0x00, 0x11, 0x22, 0x33, 0x44, 0x55, 0x88, 0xb5]

/-- V1's frame, as the vector writes it. -/
def catFrame : Bytes :=
  [0x14, 0xb3, 0x1f, 0x23, 0x8c, 0xc6, 0x00, 0x11, 0x22, 0x33, 0x44, 0x55, 0x88, 0xb5, 0x63, 0x61, 0x74] ++
    List.replicate 43 0x00#8 ++ [0x00, 0xe3, 0x00, 0x1c]

/-- A state with one port and a script. -/
def only (p : Port) (es : List Event) : State := { State.reset with ports := [p], inputs := es }

/-- An IDLE port with one descriptor waiting. -/
def idleWith (d : Bytes) : Port := { Port.reset with waiting := [d] }

/-- An IDLE port with a descriptor that is refused and, behind it, V1's BUILD. -/
def twoRequests : Port := { Port.reset with waiting := [[0x00], encode catBuild] }

/-- A port that has accepted `i`. -/
def busyWith (i : Instr) : Port := { Port.reset with chan := Channel.accepted i }

/-- V33: V1's SEND has been handed over and not answered. -/
def sentCat (es : List Event) : State :=
  { only { Port.reset with chan := { phase := .waitTx 0, latch := some catSend, fbuf := [], crcAcc := none } } es with
    txLog := [{ channel := 0, frame := frameOf catDst catSrc catProto cat, answer := none }] }

/-- What one step leaves that channel 0's requester and the transmitter can see: response bytes (of outcomes whose bytes the spec
fixes), the calls with their answers, and the mark. -/
def seen (s : State) : Option (List Bytes × List (Bytes × Option TxAnswer) × Bool) :=
  match step s with
  | .next t => some (((t.port 0).responses.filter (fun r => decide (r.status ≠ 0x02#8))).map Response.encode,
      t.txLog.map (fun c => (c.frame, c.answer)), t.refusalMark)
  | _ => none

/-! ### WellFormed -/

/-- A payload of 65536 bytes fits no descriptor (R63); one of 65535 does (V11). -/
theorem test_wf_refuses_long_payload : (Instr.build catDst catSrc catProto (zeros 65536)).wf = false := by
  simp [Instr.wf, Instr.payload, maxPlen]

theorem test_wf_takes_longest_payload : (Instr.send catDst catSrc catProto (zeros 65535)).wf = true := by
  simp [Instr.wf, Instr.payload, maxPlen]

/-! ### Decoding: V40 to V46, R67 -/

theorem test_decode_build : decode (catHead 0x01 ++ [0x00, 0x03, 0x63, 0x61, 0x74]) = .ok catBuild := by decide
theorem test_decode_send : decode (catHead 0x02 ++ [0x00, 0x03, 0x63, 0x61, 0x74]) = .ok catSend := by decide
theorem test_encode_build : encode catBuild = catHead 0x01 ++ [0x00, 0x03, 0x63, 0x61, 0x74] := by decide
theorem test_decode_empty : decode [] = .error .empty := by decide
theorem test_decode_zeros : decode (zeros 17) = .error (.reservedOpcode 0x00) := by decide
theorem test_decode_opcode_three : decode [0x03] = .error (.reservedOpcode 0x03) := by decide
theorem test_decode_short : decode (catHead 0x01 ++ [0x00]) = .error .shortDescriptor := by decide
theorem test_decode_byte_missing : decode (catHead 0x01 ++ [0x00, 0x03, 0x63, 0x61]) = .error .lengthMismatch := by decide
theorem test_decode_byte_extra :
    decode (catHead 0x01 ++ [0x00, 0x03, 0x63, 0x61, 0x74, 0x00]) = .error .lengthMismatch := by decide
theorem test_decode_no_payload :
    decode (catHead 0x01 ++ [0x00, 0x00]) = .ok (.build catDst catSrc catProto []) := by decide

/-- PLEN is big-endian: `01 00` asks for 256 bytes. -/
theorem test_plen_big_endian : plenOf (catHead 0x01 ++ [0x01, 0x00]) = 256 := by decide

/-- The table's rows, numbered as opcode_table.json numbers them. -/
theorem test_table_word_build : decodeTableWord 8 0x01 = some (.build ⟨0, 0, 0, 0, 0, 0⟩ ⟨0, 0, 0, 0, 0, 0⟩ ⟨0, 0⟩ []) := by
  decide +kernel
theorem test_table_word_send : decodeTableWord 136 0x02 = some (.send ⟨0, 0, 0, 0, 0, 0⟩ ⟨0, 0, 0, 0, 0, 0⟩ ⟨0, 0⟩ []) := by
  decide +kernel
theorem test_table_word_reserved : decodeTableWord 8 0x03 = none := by decide +kernel

/-! ### Assembler: R67, and Program 2's third line -/

theorem test_assemble_build :
    assembleLine "BUILD dst=14:b3:1f:23:8c:c6, src=00:11:22:33:44:55, proto=88:b5, payload=\"cat\"" =
      some (catHead 0x01 ++ [0x00, 0x03, 0x63, 0x61, 0x74]) := by decide +kernel
theorem test_assemble_send :
    assembleLine "SEND dst=ff:ff:ff:ff:ff:ff, src=00:11:22:33:44:55, proto=08:00, payload=hex(ff)" =
      some [0x02, 0xff, 0xff, 0xff, 0xff, 0xff, 0xff, 0x00, 0x11, 0x22, 0x33, 0x44, 0x55, 0x08, 0x00, 0x00, 0x01, 0xff] := by
  decide +kernel
/-- log 21: 65535 bytes still have a descriptor, and 65536 have none. -/
theorem test_line_too_long :
    (AsmLine.descriptor? ⟨.build, catDst, catSrc, catProto, .zeros 65536⟩) = none ∧
      (AsmLine.descriptor? ⟨.build, catDst, catSrc, catProto, .zeros 65535⟩).isSome = true := by
  simp [AsmLine.descriptor?, AsmLine.request, Instr.wf, PayloadForm.toBytes, maxPlen]
/-- log 18: spaces beside the pairs of hex(<pairs>). -/
theorem test_hex_spaces : readPayload ['h', 'e', 'x', '(', ' ', 'f', 'f', ' ', ')'] = some (.hex [0xff]) ∧
    readPayload ['h', 'e', 'x', '(', ' ', ')'] = some (.hex []) := by decide +kernel
/-- Program 1's empty text; and log 18: a double quote within the text. -/
theorem test_text_forms : readPayload ['"', '"'] = some (.text []) ∧ readPayload ['"', 'a', '"', 'b', '"'] = none := by
  decide +kernel
theorem test_payload_forms :
    PayloadForm.toBytes (.count1 3) = [1, 2, 3] ∧ PayloadForm.toBytes (.ramp 3) = [0, 1, 2] ∧
      readPayload ['r', 'e', 'p', '(', '0', 'x', 'a', 'a', ',', ' ', '2', ')'] = some (.rep 0xaa 2) := by decide +kernel

/-! ### CRC: V20 to V24, V26, R102 -/

theorem test_crc_check : crc32 [0x31, 0x32, 0x33, 0x34, 0x35, 0x36, 0x37, 0x38, 0x39] = 0xCBF43926#32 := by decide +kernel
theorem test_crc_one_byte : crc32 [0x00] = 0xD202EF8D#32 ∧ crc32 [0xff] = 0xFF000000#32 ∧ crc32 [0x61] = 0xE8B7BE43#32 := by
  decide +kernel
theorem test_crc_four_zeros : crc32 [0x00, 0x00, 0x00, 0x00] = 0x2144DF1C#32 := by decide +kernel
theorem test_crc_table : crcTable 0x01 = 0x77073096#32 ∧ crcTable 0xFF = 0x2D02EF8D#32 ∧
    crc32ByTable cat = 0x9E5E43A8#32 := by decide +kernel

/-- V27: the accumulator after the first two bytes of V1's body. -/
theorem test_crc_accumulator : crcFollow [0x14] (crcFollow [] none [0x14]) [0xb3] = some 0xC2E0D863#32 := by decide +kernel

/-! ### BUILD and SEND: V1, V4, V5, V6, V10, V30 to V34, Programs 1 and 4 -/

theorem test_build_cat_frame : frameOf catDst catSrc catProto cat = catFrame := by decide +kernel
theorem test_build_one_padding_byte :
    (frameOf catDst catSrc catProto (List.replicate 45 0xaa)).drop 58 = [0xaa, 0x00, 0x92, 0x3d, 0x94, 0xba] := by
  decide +kernel
theorem test_build_no_padding :
    (frameOf catDst catSrc catProto (List.replicate 47 0xaa)).drop 60 = [0xaa, 0x4d, 0x97, 0x52, 0xae] := by decide +kernel
theorem test_frame_zero_body :
    (frameOf ⟨0, 0, 0, 0, 0, 0⟩ ⟨0, 0, 0, 0, 0, 0⟩ ⟨0, 0⟩ []).drop 60 = [0x08, 0x89, 0x12, 0x04] := by decide +kernel
theorem test_frame_residue : crc32 catFrame = 0x2144DF1C#32 := by decide +kernel

/-- Program 1's first line: BUILD's own step. -/
theorem test_build_step : seen (only (busyWith catBuild) [.go 0]) = some ([0x00 :: 0x00 :: 0x40 :: catFrame], [], false) := by
  decide +kernel

/-- V10: an oversize BUILD answers `01`. -/
theorem test_build_oversize :
    seen (only (busyWith (.build catDst catSrc catProto (List.replicate 1501 0x55))) [.go 0]) = some ([[0x01]], [], false) := by
  decide +kernel

/-- V30, V33: SEND's own step makes one call, with V1's frame, and answers nothing yet. -/
theorem test_send_step : seen (only (busyWith catSend) [.go 0]) = some ([], [(catFrame, none)], false) := by decide +kernel

/-- V32: an oversize SEND makes no call; its response is `01`. -/
theorem test_send_oversize :
    seen (only (busyWith (.send catDst catSrc catProto (List.replicate 1501 0x55))) [.go 0]) = some ([[0x01]], [], false) := by
  decide +kernel

/-- V30: the Ack ends it, and the log records it. -/
theorem test_answer_ack : seen (sentCat [.answer 0 .ack]) = some ([[0x00]], [(catFrame, some .ack)], false) := by decide +kernel

/-- V31: the failure is passed on unchanged, whichever value of the OPEN type it is. -/
theorem test_answer_failure (e : TxError) : ∃ t, step (sentCat [.answer 0 (.failure e)]) = .next t ∧
    (t.port 0).responses = [.error (.transmitFailure e)] ∧ (t.port 0).chan = Channel.reset := ⟨_, rfl, rfl, rfl⟩

/-- V34: reset gives no response and the call stays logged; an answer after it changes nothing. -/
theorem test_reset_in_wait : seen (sentCat [.reset]) = some ([], [(catFrame, none)], false) := by decide +kernel
theorem test_answer_after_reset :
    seen (resetBlock (sentCat [.answer 0 .ack])) = some ([], [(catFrame, none)], false) := by decide +kernel

/-- Program 4: a refused descriptor sets the mark and is answered by nothing. -/
theorem test_refused_sets_mark : seen (only (idleWith (zeros 17)) [.go 0]) = some ([], [], true) := by decide +kernel

/-- Program 4: the request behind a refused one stays, to be accepted next. -/
theorem test_refused_keeps_the_rest : (match step (only twoRequests [.go 0]) with
    | .next t => decide ((t.port 0).waiting = [encode catBuild] ∧ (t.port 0).chan.phase = .idle)
    | _ => false) = true := by decide +kernel

/-- The host's placement: the very next step runs the table's row. -/
theorem test_placed_build : (match step (State.reset.withFetchWord 8 0x01) with
    | .next t => decide ((t.port 0).responses.length = 1)
    | _ => false) = true := by decide +kernel
theorem test_placed_send : (match step (State.reset.withFetchWord 8 0x02) with
    | .next t => decide (t.txLog.length = 1 ∧ (t.port 0).chan.phase = .waitTx 0)
    | _ => false) = true := by decide +kernel

/-! ### Witnesses: what the statements' hypotheses ask can be met -/

/-- A state whose only trace is its script and its waiting requests meets the invariant. -/
theorem inv_of_only (p : Port) (es : List Event) (h : p.chan = Channel.reset) (hr : p.responses = []) : (only p es).Inv := by
  refine ⟨fun c => ?_, by simp [only, State.reset], fun c => ?_⟩ <;> cases c <;>
    simp [only, State.port, portAt, ChannelOk, h, hr, Channel.reset, Port.reset]

/-- V33's state meets the invariant, whatever is scripted. -/
theorem inv_of_sent (es : List Event) : (sentCat es).Inv := by
  have hF : IsFrame (frameOf catDst catSrc catProto cat) := ⟨_, _, _, _, by decide, rfl⟩
  refine ⟨fun c => ?_, fun call h => ?_, fun c => ?_⟩
  · cases c with
    | zero => exact ⟨rfl, rfl, catDst, catSrc, catProto, cat, rfl, by decide, rfl⟩
    | succ c => simp [sentCat, only, State.reset, portAt, ChannelOk, Port.reset, Channel.reset]
  · simp only [sentCat, List.mem_singleton] at h
    exact h ▸ hF
  · cases c <;> simp [sentCat, only, State.reset, portAt, Port.reset]

theorem returns_cat : ReturnsFrame catBuild State.reset (frameOf catDst catSrc catProto cat) := by
  obtain ⟨ch, h₁, h₂⟩ := buildFrame_ok catBuild (State.reset.port State.reset.cur).chan
  refine ⟨respond State.reset (.frame ch.fbuf), ?_, ?_⟩
  · rw [show exec catBuild State.reset = execBuild catDst catSrc catProto cat State.reset from rfl, execBuild,
      if_neg (by decide), show Instr.build catDst catSrc catProto cat = catBuild from rfl, h₁]
  · rw [respond_port_cur, h₂]; rfl

theorem witness_DecodeInvertsEncode : catBuild.wf = true := by decide
theorem witness_AcceptedBytesAreTheEncoding : decode (catHead 0x02 ++ [0x00, 0x03, 0x63, 0x61, 0x74]) = .ok catSend := by
  decide
theorem witness_DecoderFollowsRefusalTable_reserved : (0xff#8) ≠ 0x01#8 ∧ (0xff#8) ≠ 0x02#8 := by decide
theorem witness_DecoderFollowsRefusalTable_short : (catHead 0x02 ++ [0x00]).length < 17 := by decide
theorem witness_DecoderFollowsRefusalTable_mismatch :
    17 ≤ (catHead 0x02 ++ [0x00, 0x01]).length ∧
      (catHead 0x02 ++ [0x00, 0x01]).length ≠ 17 + readBe16 (catHead 0x02 ++ [0x00, 0x01]) 15 := by decide
theorem witness_DecoderFollowsRefusalTable_accepted :
    17 ≤ (catHead 0x02 ++ [0x00, 0x00]).length ∧
      (catHead 0x02 ++ [0x00, 0x00]).length = 17 + readBe16 (catHead 0x02 ++ [0x00, 0x00]) 15 ∧
      (catHead 0x02 ++ [0x00, 0x00]).head? = some 0x02#8 := by decide
theorem witness_DecoderFollowsRefusalTable_refused :
    (only (idleWith [0x00]) [.go 0]).inputs = [.go 0] ∧ ((only (idleWith [0x00]) [.go 0]).port 0).chan.phase = .idle ∧
      ((only (idleWith [0x00]) [.go 0]).port 0).waiting = [[0x00]] ∧ decode [0x00] = .error (.reservedOpcode 0x00) := by decide
theorem witness_OperandsAreDescriptorSlices : decode (catHead 0x01 ++ [0x00, 0x00]) = .ok (.build catDst catSrc catProto []) := by
  decide
theorem witness_ResponseBytes : IsFrame (frameOf catDst catSrc catProto cat) := ⟨_, _, _, _, by decide, rfl⟩

/-- 1501 bytes, the smallest oversize length, and 1500, the largest accepted (R80's corner cases). -/
theorem witness_OversizeRequestAnswersError :
    1500 < (Instr.send catDst catSrc catProto (zeros 1501)).payload.length ∧ (zeros 1500).length ≤ 1500 := by
  simp [Instr.payload]
theorem witness_SendHandsFrameOver : (zeros 1500).length ≤ 1500 ∧ (zeros 0).length ≤ 1500 := by simp
theorem witness_SentFrameIsBuiltFrame :
    ReturnsFrame (.build catDst catSrc catProto cat) State.reset (frameOf catDst catSrc catProto cat) := returns_cat
theorem witness_FrameOffsetMap : cat.length ≤ 1500 ∧ (zeros 46).length ≤ 1500 ∧ (zeros 1500).length ≤ 1500 := by
  simp [cat]
theorem witness_FrameByteOrder : cat.length ≤ 1500 := by decide
theorem witness_HeaderStep : Channel.reset.fbuf = [] := rfl

/-- 45 and 46 bytes, the last length with padding and the first without. -/
theorem witness_PayloadAndPaddingSteps :
    ({ Channel.reset with fbuf := zeros 14 } : Channel).fbuf.length = 14 ∧
      ({ Channel.reset with fbuf := zeros (14 + 45) } : Channel).fbuf.length =
        14 + (Instr.build catDst catSrc catProto (zeros 45)).payload.length ∧
      (Instr.build catDst catSrc catProto (zeros 45)).payload.length < 46 ∧
      ({ Channel.reset with fbuf := zeros (14 + 46) } : Channel).fbuf.length =
        14 + (Instr.build catDst catSrc catProto (zeros 46)).payload.length ∧
      46 ≤ (Instr.build catDst catSrc catProto (zeros 46)).payload.length := by simp [Instr.payload]
theorem witness_TrailingZerosLookLikePadding : ([] : Bytes).length + 46 ≤ 46 ∧ cat.length + 43 ≤ 46 := by decide
theorem witness_CommandsFrame : ∃ t, exec catBuild State.reset = .next t := let ⟨t, h, _⟩ := returns_cat; ⟨t, h⟩

/-- A SEND that goes on to wait, the frame statement's last clause. -/
theorem witness_CommandsFrame_send : ∃ t, exec catSend State.reset = .next t ∧ (t.port 0).chan.phase ≠ .idle := by
  obtain ⟨ch, h₁, -⟩ := buildFrame_ok catSend (State.reset.port State.reset.cur).chan
  refine ⟨transmit State.reset ch.fbuf, ?_, ?_⟩
  · rw [show exec catSend State.reset = execSend catDst catSrc catProto cat State.reset from rfl, execSend,
      if_neg (by decide), show Instr.send catDst catSrc catProto cat = catSend from rfl, h₁]
  · rw [show (0 : Nat) = State.reset.cur from rfl, transmit_port_cur]; simp

/-- The first append of a body, and a later one. -/
theorem witness_AccumulatorFollowsBody :
    (∃ ch', appendBody Channel.reset 0 1 [0x14] = .ok ch' ∧ ch'.fbuf ≠ [] ∧
      ∃ A, ch'.crcAcc = some A ∧ A ^^^ 0xFFFFFFFF#32 = crc32 ch'.fbuf ∧ ∃ ch'', appendBody ch' 1 1 [0xb3] = .ok ch'') :=
  ⟨_, rfl, by simp [Channel.reset], _, rfl, rfl, _, rfl⟩
theorem witness_ChecksumRoundTrip : ReturnsFrame catBuild State.reset (frameOf catDst catSrc catProto cat) := returns_cat
theorem witness_FrameResidue : ReturnsFrame catBuild State.reset (frameOf catDst catSrc catProto cat) := returns_cat

theorem witness_StepRunsDecodedRequest_scripted :
    (only (busyWith catSend) [.go 0]).inputs = [.go 0] ∧ ((only (busyWith catSend) [.go 0]).port 0).chan.phase = .busy ∧
      ((only (busyWith catSend) [.go 0]).port 0).chan.latch = some catSend := by decide

/-- Channel 1 is the lowest ready one. -/
theorem witness_StepRunsDecodedRequest_own :
    ({ State.reset with ports := [Port.reset, busyWith catBuild] } : State).inputs = [] ∧
      (({ State.reset with ports := [Port.reset, busyWith catBuild] } : State).port 1).chan.phase = .busy ∧
      (({ State.reset with ports := [Port.reset, busyWith catBuild] } : State).port 1).chan.latch = some catBuild ∧
      ∀ c', c' < 1 → (({ State.reset with ports := [Port.reset, busyWith catBuild] } : State).port c').ready = false := by
  decide
theorem witness_StepRunsDecodedRequest_bytes :
    (only (idleWith (encode catBuild)) [.go 0, .go 0]).inputs = [.go 0, .go 0] ∧
      ((only (idleWith (encode catBuild)) [.go 0, .go 0]).port 0).chan.phase = .idle ∧
      ((only (idleWith (encode catBuild)) [.go 0, .go 0]).port 0).waiting = [encode catBuild] ∧
      decode (encode catBuild) = .ok catBuild := by decide
theorem witness_PlacedWordRuns : ∃ i, decodeTableWord 8 0x02 = some i :=
  ⟨.send ⟨0, 0, 0, 0, 0, 0⟩ ⟨0, 0, 0, 0, 0, 0⟩ ⟨0, 0⟩ [], by decide +kernel⟩

/-- A step that accepts a request. -/
theorem witness_LatchWrittenOnlyAtAcceptance : ∃ t, step (only (idleWith (encode catBuild)) [.go 0]) = .next t := ⟨_, rfl⟩
theorem witness_MovesFollowTransitionTable : ∃ t, step (sentCat [.answer 0 .ack]) = .next t := ⟨_, rfl⟩
/-- Its second part, clause by clause: a descriptor presented; an IDLE channel's own move, scripted and unscripted, with a refused
descriptor before another; and steps that are neither, a descriptor presented elsewhere and the reset of a channel with a request
waiting. -/
theorem witness_MovesFollowTransitionTable_presented :
    (sentCat [.present 0 [0x01]]).inputs = [.present 0 [0x01]] ∧ ∃ t, step (sentCat [.present 0 [0x01]]) = .next t :=
  ⟨rfl, _, rfl⟩
theorem witness_MovesFollowTransitionTable_takenUp :
    ((only twoRequests [.go 0]).port 0).chan.phase = .idle ∧ (only twoRequests [.go 0]).movesOf 0 ∧
      (∃ t, step (only twoRequests [.go 0]) = .next t) ∧ (only twoRequests []).movesOf 0 ∧
      ∃ t, step (only twoRequests []) = .next t :=
  ⟨rfl, .inl ⟨_, rfl⟩, ⟨_, rfl⟩, .inr ⟨rfl, rfl, by simp⟩, ⟨_, rfl⟩⟩
theorem witness_MovesFollowTransitionTable_kept :
    (∀ d es, (only twoRequests [.reset]).inputs ≠ .present 0 d :: es) ∧ ¬ (only twoRequests [.reset]).movesOf 0 ∧
      (∃ t, step (only twoRequests [.reset]) = .next t) ∧
      (∀ d es, (sentCat [.present 1 [0x01]]).inputs ≠ .present 0 d :: es) ∧
      ((sentCat [.present 1 [0x01]]).port 0).chan.phase ≠ .idle ∧ ∃ t, step (sentCat [.present 1 [0x01]]) = .next t :=
  ⟨by simp [only], by simp [State.movesOf, only], ⟨_, rfl⟩, by simp [sentCat, only], by decide, ⟨_, rfl⟩⟩

/-- A BUSY channel, on which a second request is presented. -/
theorem witness_PresentedRequestWaits :
    (only (busyWith catSend) [.present 0 (encode catBuild)]).inputs = [.present 0 (encode catBuild)] ∧
      ((only (busyWith catSend) [.present 0 (encode catBuild)]).port 0).chan.phase = .busy := ⟨rfl, rfl⟩

/-- V34: the call of a SEND cut off by reset, while the channel's next SEND is handed over. -/
theorem witness_AbandonedCallStaysAbandoned :
    (∃ t, step { sentCat [.go 0] with ports := [busyWith catSend] } = .next t) ∧
      0 < ({ sentCat [.go 0] with ports := [busyWith catSend] } : State).txLog.length ∧
      ∀ c, (({ sentCat [.go 0] with ports := [busyWith catSend] } : State).port c).chan.phase ≠ .waitTx 0 := by
  refine ⟨⟨_, rfl⟩, by decide, fun c => ?_⟩
  cases c <;> simp [sentCat, only, portAt, busyWith, Channel.accepted, Port.reset, Channel.reset]
theorem witness_AnswerEndsSendUnchanged (a : TxAnswer) :
    (sentCat [.answer 0 a]).inputs = [.answer 0 a] ∧
      (sentCat [.answer 0 a]).txLog[0]? =
        some { channel := 0, frame := frameOf catDst catSrc catProto cat, answer := none } ∧
      ((sentCat [.answer 0 a]).port 0).chan.phase = .waitTx 0 := ⟨rfl, rfl, rfl⟩
theorem witness_LateAnswerDropped :
    (resetBlock (sentCat [.answer 0 .ack])).inputs = [.answer 0 .ack] ∧
      (resetBlock (sentCat [.answer 0 .ack])).txLog[0]? =
        some { channel := 0, frame := frameOf catDst catSrc catProto cat, answer := none } ∧
      ((resetBlock (sentCat [.answer 0 .ack])).port 0).chan.phase ≠ .waitTx 0 :=
  ⟨rfl, rfl, by simp [resetPort, Channel.reset]⟩
theorem witness_WaitEndsOnlyByAnswerOrReset :
    (∃ t, step (sentCat [.present 0 [0x01]]) = .next t) ∧ ((sentCat [.present 0 [0x01]]).port 0).chan.phase = .waitTx 0 :=
  ⟨⟨_, rfl⟩, rfl⟩

theorem witness_OneCallPerSend :
    (∃ t, step (sentCat [.answer 0 .ack]) = .next t) ∧ 1500 < (zeros 1501).length ∧ (zeros 1500).length ≤ 1500 :=
  ⟨⟨_, rfl⟩, by simp, by simp⟩
theorem witness_OneOutcomePerTransaction : ∃ t, step (sentCat [.answer 0 .ack]) = .next t := ⟨_, rfl⟩
theorem witness_OneOutcomePerTransaction_failure (e : TxError) : ∃ t, step (sentCat [.answer 0 (.failure e)]) = .next t :=
  ⟨_, rfl⟩
theorem witness_ResetAbandonsTransactions :
    (sentCat [.reset]).inputs = [.reset] ∧ 0 < (sentCat [.reset]).txLog.length := by decide
theorem witness_EmptyLatchReadFaults :
    (only { Port.reset with chan := { Channel.reset with phase := .busy } } [.go 0]).inputs = [.go 0] ∧
      ((only { Port.reset with chan := { Channel.reset with phase := .busy } } [.go 0]).port 0).chan.phase = .busy ∧
      ((only { Port.reset with chan := { Channel.reset with phase := .busy } } [.go 0]).port 0).chan.latch = none := by decide

theorem witness_StepKeepsInvariant :
    (sentCat [.answer 0 .ack]).Inv ∧ ∃ t, step (sentCat [.answer 0 .ack]) = .next t := ⟨inv_of_sent _, _, rfl⟩
theorem witness_StepNeverStops : (sentCat [.answer 0 .ack]).Inv ∧ (sentCat [.answer 0 .ack]).nextAnswersMade := by
  refine ⟨inv_of_sent _, fun k a es h => ?_⟩
  simp only [sentCat, only, List.cons.injEq, Event.answer.injEq] at h
  simp [sentCat, ← h.1.1]
theorem witness_StepKeepsChannelCount :
    (only (idleWith (encode catSend)) [.go 0]).withinChannels 1 ∧
      ∃ t, step (only (idleWith (encode catSend)) [.go 0]) = .next t :=
  ⟨⟨by decide, by decide, by simp [only, State.reset], by simp [only, Event.within]⟩, _, rfl⟩
theorem witness_ChannelMoveIsPrivate :
    (only (busyWith catSend) [.go 0]).port 0 = (({ sentCat [.go 0] with ports := [busyWith catSend] } : State).port 0) ∧
      (∃ t, step (only (idleWith (encode catSend)) [.go 0]) = .next t) ∧
      (only (idleWith (encode catSend)) [.go 0]).port 0 =
        (({ sentCat [.go 0, .reset] with ports := [idleWith (encode catSend)] } : State).port 0) ∧
      ∃ t, step { sentCat [.go 0, .reset] with ports := [idleWith (encode catSend)] } = .next t :=
  ⟨rfl, ⟨_, rfl⟩, rfl, ⟨_, rfl⟩⟩
theorem witness_MovesOfTwoChannelsCommute : (only (idleWith (encode catSend)) []).Inv ∧ (0 : Nat) ≠ 1 :=
  ⟨inv_of_only _ _ rfl rfl, by decide⟩
theorem witness_LogEntriesStay :
    (sentCat [.reset]).Inv ∧ (∃ t, step (sentCat [.reset]) = .next t) ∧
      (sentCat [.reset]).txLog[0]? = some { channel := 0, frame := frameOf catDst catSrc catProto cat, answer := none } :=
  ⟨inv_of_sent _, ⟨_, rfl⟩, rfl⟩

/-- A log with an answered call. -/
theorem witness_LogEntriesStay_answered :
    ({ only Port.reset [.reset] with txLog :=
        [{ channel := 0, frame := frameOf catDst catSrc catProto cat, answer := some .ack }] } : State).Inv := by
  refine ⟨fun c => ?_, fun call h => ?_, fun c => ?_⟩
  · cases c <;> simp [only, State.reset, portAt, ChannelOk, Port.reset, Channel.reset]
  · simp only [List.mem_singleton] at h
    exact h ▸ ⟨_, _, _, _, by decide, rfl⟩
  · cases c <;> simp [only, State.reset, portAt, Port.reset]
theorem witness_OwnStepsFinish :
    (only (idleWith (encode catSend)) []).Inv ∧ (only (idleWith (encode catSend)) []).inputs = [] ∧
      workOf (only (idleWith (encode catSend)) []).ports = 2 := ⟨inv_of_only _ _ rfl rfl, rfl, rfl⟩
theorem witness_FinishedRunHolds : State.reset.runOver = true := by decide

/-- Two BUILDs, of V1's operands and of an empty payload the other way round. -/
def twoBuilds : List (HardwareAddress × HardwareAddress × ProtocolId × Bytes) :=
  [(catDst, catSrc, catProto, cat), (catSrc, catDst, catProto, [])]

/-- A state where both wait at channel 0, with two moves scripted for each. -/
def twoWaiting : State :=
  only { Port.reset with waiting := twoBuilds.map fun q => encode (.build q.1 q.2.1 q.2.2.1 q.2.2.2) }
    (List.replicate 4 (.go 0))

theorem witness_BuildsAnsweredInOrder :
    (∀ q ∈ twoBuilds, q.2.2.2.length ≤ 65535) ∧ (twoWaiting.port 0).chan = Channel.reset ∧
      (twoWaiting.port 0).waiting = twoBuilds.map (fun q => encode (.build q.1 q.2.1 q.2.2.1 q.2.2.2)) ∧
      twoWaiting.inputs = List.replicate (2 * twoBuilds.length) (.go 0) := ⟨by decide, rfl, rfl, rfl⟩
theorem witness_SendTransactionRuns (a : TxAnswer) :
    cat.length ≤ 1500 ∧
      (only Port.reset [.present 0 (encode catSend), .go 0, .go 0, .answer 0 a]).inputs =
        [.present 0 (encode catSend), .go 0, .go 0, .answer 0 a] ∧
      ((only Port.reset [.present 0 (encode catSend), .go 0, .go 0, .answer 0 a]).port 0).chan = Channel.reset ∧
      ((only Port.reset [.present 0 (encode catSend), .go 0, .go 0, .answer 0 a]).port 0).waiting = [] :=
  ⟨by decide, rfl, rfl, rfl⟩

end Sys2Proof.Tests
end

/-! ## Each command as one operation on the state -/

section
namespace Sys2Proof.Machine

theorem buildResponse_oversize {p : Bytes} (h : maxPayload < p.length) (dst src : HardwareAddress) (proto : ProtocolId) :
    buildResponse dst src proto p = .error .oversizePayload := by
  rw [buildResponse, buildOf, if_pos h]

theorem buildResponse_accepted {p : Bytes} (h : p.length ≤ maxPayload) (dst src : HardwareAddress) (proto : ProtocolId) :
    buildResponse dst src proto p = .frame (frameOf dst src proto p) := by
  rw [buildResponse, buildOf, if_neg (by omega)]

theorem isFrame_frameOf {p : Bytes} (h : p.length ≤ maxPayload) (dst src : HardwareAddress) (proto : ProtocolId) :
    IsFrame (frameOf dst src proto p) := ⟨dst, src, proto, p, h, rfl⟩

theorem buildResponse_whole (dst src : HardwareAddress) (proto : ProtocolId) (p : Bytes) :
    (buildResponse dst src proto p).whole := by
  obtain h | h := Nat.lt_or_ge maxPayload p.length
  · rw [buildResponse_oversize h]
    trivial
  · rw [buildResponse_accepted h]
    exact isFrame_frameOf h dst src proto

theorem answerResponse_whole (a : TxAnswer) : (answerResponse a).whole := by cases a <;> trivial

/-- R80: a BUILD ends its transaction with `build`'s result. -/
theorem exec_build (dst src : HardwareAddress) (proto : ProtocolId) (p : Bytes) (s : State) :
    exec (.build dst src proto p) s = .next (respond s (buildResponse dst src proto p)) := by
  change execBuild dst src proto p s = _
  obtain h | h := Nat.lt_or_ge maxPayload p.length
  · rw [execBuild, if_pos ((oversize_iff p).2 h), buildResponse_oversize h, raiseError_eq]
  · obtain ⟨ch, hch, hframe⟩ := buildFrame_ok (.build dst src proto p) (s.port s.cur).chan
    rw [execBuild, if_neg (by rw [oversize_iff]; omega), hch, buildResponse_accepted h]
    simp only [hframe, Instr.dst, Instr.src, Instr.proto, Instr.payload]

/-- R120, T3: an oversize SEND ends its transaction with the error. -/
theorem exec_send_oversize {p : Bytes} (h : maxPayload < p.length) (dst src : HardwareAddress) (proto : ProtocolId)
    (s : State) : exec (.send dst src proto p) s = .next (respond s (.error .oversizePayload)) := by
  change execSend dst src proto p s = _
  rw [execSend, if_pos ((oversize_iff p).2 h), raiseError_eq]

/-- R120, T4: any other SEND hands its frame over. -/
theorem exec_send_accepted {p : Bytes} (h : p.length ≤ maxPayload) (dst src : HardwareAddress) (proto : ProtocolId)
    (s : State) : exec (.send dst src proto p) s = .next (transmit s (frameOf dst src proto p)) := by
  change execSend dst src proto p s = _
  obtain ⟨ch, hch, hframe⟩ := buildFrame_ok (.send dst src proto p) (s.port s.cur).chan
  rw [execSend, if_neg (by rw [oversize_iff]; omega), hch]
  simp only [hframe, Instr.dst, Instr.src, Instr.proto, Instr.payload]

/-- Everything a command's own step can do: T2, T3 or T4. -/
theorem exec_cases {i : Instr} {s t : State} (h : exec i s = .next t) :
    (∃ dst src proto p, i = .build dst src proto p ∧ t = respond s (buildResponse dst src proto p)) ∨
    (∃ dst src proto p, i = .send dst src proto p ∧ maxPayload < p.length ∧
      t = respond s (.error .oversizePayload)) ∨
    (∃ dst src proto p, i = .send dst src proto p ∧ p.length ≤ maxPayload ∧
      t = transmit s (frameOf dst src proto p)) := by
  cases i with
  | build dst src proto p =>
    rw [exec_build] at h
    cases h
    exact .inl ⟨dst, src, proto, p, rfl, rfl⟩
  | send dst src proto p =>
    obtain hp | hp := Nat.lt_or_ge maxPayload p.length
    · rw [exec_send_oversize hp] at h
      cases h
      exact .inr (.inl ⟨dst, src, proto, p, rfl, hp, rfl⟩)
    · rw [exec_send_accepted hp] at h
      cases h
      exact .inr (.inr ⟨dst, src, proto, p, rfl, hp, rfl⟩)

/-- A command's own step leaves every other channel's port. -/
theorem exec_port_other {i : Instr} {s t : State} (h : exec i s = .next t) {c : Nat} (hc : c ≠ s.cur) :
    t.port c = s.port c := by
  obtain ⟨_, _, _, _, -, rfl⟩ | ⟨_, _, _, _, -, -, rfl⟩ | ⟨_, _, _, _, -, -, rfl⟩ := exec_cases h
  · exact respond_port_other _ _ _ hc
  · exact respond_port_other _ _ _ hc
  · exact transmit_port_other _ _ _ hc

/-- A command's own step leaves the requests waiting at its channel. -/
theorem exec_waiting {i : Instr} {s t : State} (h : exec i s = .next t) :
    (t.port s.cur).waiting = (s.port s.cur).waiting := by
  obtain ⟨_, _, _, _, -, rfl⟩ | ⟨_, _, _, _, -, -, rfl⟩ | ⟨_, _, _, _, -, -, rfl⟩ := exec_cases h <;> simp

/-! The mover's port after its transaction ends or is handed over, where the state that runs it is written out. -/

@[simp] theorem respond_mk_port (ps : List Port) (c : Nat) (l : List TxCall) (b : Bool) (es : List Event) (r : Response) :
    (respond ⟨ps, c, l, b, es⟩ r).port c =
      { chan := Channel.reset, waiting := (portAt ps c).waiting, responses := (portAt ps c).responses ++ [r] } :=
  respond_port_cur ⟨ps, c, l, b, es⟩ r

@[simp] theorem transmit_mk_port (ps : List Port) (c : Nat) (l : List TxCall) (b : Bool) (es : List Event) (f : Bytes) :
    (transmit ⟨ps, c, l, b, es⟩ f).port c =
      { chan := { phase := .waitTx l.length, latch := (portAt ps c).chan.latch, fbuf := [], crcAcc := none },
        waiting := (portAt ps c).waiting, responses := (portAt ps c).responses } :=
  transmit_port_cur ⟨ps, c, l, b, es⟩ f

end Sys2Proof.Machine
end

/-! ## Which channel moves, and everything a step can do -/

section
namespace Sys2Proof.Machine

/-- `s` with its next event consumed; with nothing scripted, `s` itself. -/
def State.popped (s : State) : State := { s with inputs := s.inputs.tail }

@[simp] theorem State.popped_port (s : State) (c : Nat) : s.popped.port c = s.port c := rfl
@[simp] theorem State.popped_ports (s : State) : s.popped.ports = s.ports := rfl
@[simp] theorem State.popped_cur (s : State) : s.popped.cur = s.cur := rfl
@[simp] theorem State.popped_txLog (s : State) : s.popped.txLog = s.txLog := rfl
@[simp] theorem State.popped_refusalMark (s : State) : s.popped.refusalMark = s.refusalMark := rfl
@[simp] theorem State.popped_inputs (s : State) : s.popped.inputs = s.inputs.tail := rfl

theorem State.popped_of_cons {s : State} {e : Event} {es : List Event} (h : s.inputs = e :: es) :
    s.popped = { s with inputs := es } := by rw [State.popped, h, List.tail_cons]

theorem State.popped_of_nil {s : State} (h : s.inputs = []) : s.popped = s := by
  rw [State.popped, h, List.tail_nil, ← h]

/-- `s` after channel `c` has accepted `i` (T1), with `ds` still waiting there. -/
def State.acceptedAt (s : State) (c : Nat) (i : Instr) (ds : List Bytes) : State :=
  s.popped.setPort c { s.port c with chan := Channel.accepted i, waiting := ds }

@[simp] theorem State.acceptedAt_port_same (s : State) (c : Nat) (i : Instr) (ds : List Bytes) :
    (s.acceptedAt c i ds).port c = { chan := Channel.accepted i, waiting := ds, responses := (s.port c).responses } :=
  State.port_setPort_same _ _ _
@[simp] theorem State.acceptedAt_port_other (s : State) (c c' : Nat) (i : Instr) (ds : List Bytes) (h : c' ≠ c) :
    (s.acceptedAt c i ds).port c' = s.port c' := State.port_setPort_other s.popped _ _ _ h
@[simp] theorem State.acceptedAt_txLog (s : State) (c : Nat) (i : Instr) (ds : List Bytes) :
    (s.acceptedAt c i ds).txLog = s.txLog := rfl
@[simp] theorem State.acceptedAt_inputs (s : State) (c : Nat) (i : Instr) (ds : List Bytes) :
    (s.acceptedAt c i ds).inputs = s.inputs.tail := rfl

@[simp] theorem goChannel_busy {s : State} {c : Nat} {i : Instr} (hphase : (s.port c).chan.phase = .busy)
    (hlatch : (s.port c).chan.latch = some i) : goChannel s c = exec i { s with cur := c } := by
  simp [goChannel, hphase, hlatch]

theorem goChannel_latchEmpty {s : State} {c : Nat} (hphase : (s.port c).chan.phase = .busy)
    (hlatch : (s.port c).chan.latch = none) : goChannel s c = .fault .latchEmpty := by
  simp [goChannel, hphase, hlatch]

theorem ready_of_busy {p : Port} (h : p.chan.phase = .busy) : p.ready = true := by simp [Port.ready, h]

/-- The chosen mover is the lowest ready channel. -/
theorem firstReady_lowest {ps : List Port} {b n : Nat} (h : firstReady ps b = some (b + n)) :
    ∀ m, m < n → (portAt ps m).ready = false := by
  induction ps generalizing b n with
  | nil => simp [firstReady] at h
  | cons p ps ih =>
    unfold firstReady at h
    split at h
    · have : n = 0 := by simpa using h
      omega
    · rename_i hp
      obtain ⟨j, hj, -, -⟩ := firstReady_some _ _ _ h
      intro m hm
      cases m with
      | zero => simpa [portAt] using hp
      | succ m => exact ih (n := j) (by rw [h, hj]) m (by omega)

/-- At most one channel's own move comes next. -/
theorem movesOf_unique {s : State} {c c' : Nat} (h : s.movesOf c) (h' : s.movesOf c') : c = c' := by
  obtain ⟨es, he⟩ | ⟨he, hready, hlow⟩ := h
  · obtain ⟨es', he'⟩ | ⟨he', -, -⟩ := h'
    · rw [he] at he'
      injection he' with hgo
      injection hgo
    · simp [he] at he'
  · obtain ⟨es', he'⟩ | ⟨-, hready', hlow'⟩ := h'
    · simp [he] at he'
    · obtain hlt | heq | hgt := Nat.lt_trichotomy c c'
      · simp [hlow' c hlt] at hready
      · exact heq
      · simp [hlow c' hgt] at hready'

/-- With nothing scripted, either some channel's own move comes next or none is ready. -/
theorem ownStep_cases {s : State} (h : s.inputs = []) :
    (∃ c, s.movesOf c ∧ ownStep s = goChannel s c) ∨ ((∀ c, (s.port c).ready = false) ∧ ownStep s = .next s) := by
  unfold ownStep
  cases hf : firstReady s.ports 0 with
  | none => exact .inr ⟨firstReady_none _ _ hf, rfl⟩
  | some c =>
    obtain ⟨n, hn, -, hready⟩ := firstReady_some _ _ _ hf
    obtain rfl : c = n := by omega
    rw [← Nat.zero_add c] at hf
    exact .inl ⟨c, .inr ⟨h, hready, firstReady_lowest hf⟩, rfl⟩

/-- The step is the move of the channel whose own move comes next, scripted or not. -/
theorem step_of_movesOf {s : State} {c : Nat} (h : s.movesOf c) : step s = goChannel s.popped c := by
  obtain ⟨es, he⟩ | ⟨he, hready, -⟩ := id h
  · rw [step_event s _ _ he, State.popped_of_cons he, applyEvent]
  · rw [step_own s he, State.popped_of_nil he]
    obtain ⟨c', hc', hstep⟩ | ⟨hnone, -⟩ := ownStep_cases he
    · rw [hstep, movesOf_unique h hc']
    · simp [hnone c] at hready

theorem not_movesOf_of_event {s : State} {e : Event} {es : List Event} (he : s.inputs = e :: es) (hne : ∀ c, e ≠ .go c)
    (c : Nat) : ¬ s.movesOf c := by
  rintro (⟨es', h⟩ | ⟨h, -, -⟩)
  · rw [he] at h
    injection h with hgo
    exact hne c hgo
  · simp [he] at h

theorem inputs_ne_present_of_movesOf {s : State} {c : Nat} (h : s.movesOf c) (c' : Nat) (d : Bytes) (es : List Event) :
    s.inputs ≠ .present c' d :: es :=
  fun he => not_movesOf_of_event he (by simp) c h

/-- Everything a step can do, with the event or the mover that does it. -/
inductive StepCase (s t : State) : Prop where
  /-- Nothing moves: a late answer, a WAIT_TX channel let go, an IDLE channel let go with nothing waiting, no ready channel. -/
  | hold (hidle : ∀ c, (s.port c).chan.phase = .idle → s.movesOf c → (s.port c).waiting = [])
      (hpresent : ∀ c d es, s.inputs ≠ .present c d :: es) (ht : t = s.popped)
  /-- A descriptor is presented. -/
  | present (c : Nat) (d : Bytes) (es : List Event) (he : s.inputs = .present c d :: es)
      (ht : t = presentRequest s.popped c d)
  /-- T1. -/
  | accept (c : Nat) (d : Bytes) (ds : List Bytes) (i : Instr) (hm : s.movesOf c) (hphase : (s.port c).chan.phase = .idle)
      (hwait : (s.port c).waiting = d :: ds) (hdecode : decode d = .ok i)
      (ht : t = s.acceptedAt c i ds)
  /-- A descriptor is refused (R65). -/
  | refuse (c : Nat) (d : Bytes) (ds : List Bytes) (hm : s.movesOf c) (hphase : (s.port c).chan.phase = .idle)
      (hwait : (s.port c).waiting = d :: ds)
      (ht : t = { s.popped.setPort c { s.port c with waiting := ds } with refusalMark := true })
  /-- T2, T3 or T4: a BUSY channel runs its latched request; see `exec_cases`. -/
  | run (c : Nat) (i : Instr) (hm : s.movesOf c) (hphase : (s.port c).chan.phase = .busy)
      (hlatch : (s.port c).chan.latch = some i) (ht : exec i { s.popped with cur := c } = .next t)
  /-- T5 or T6. -/
  | answered (k : Nat) (a : TxAnswer) (call : TxCall) (es : List Event) (he : s.inputs = .answer k a :: es)
      (hcall : s.txLog[k]? = some call) (hphase : (s.port call.channel).chan.phase = .waitTx k)
      (ht : t = respond { s.popped with cur := call.channel, txLog := s.txLog.set k { call with answer := some a } }
        (answerResponse a))
  /-- T7. -/
  | reset (es : List Event) (he : s.inputs = .reset :: es) (ht : t = resetBlock s.popped)

/-- What the own move of a channel can do. -/
theorem stepCase_of_go {s t : State} {c : Nat} (hm : s.movesOf c) (h : goChannel s.popped c = .next t) : StepCase s t := by
  have hpresent := inputs_ne_present_of_movesOf hm
  cases hphase : (s.port c).chan.phase with
  | idle =>
    rw [goChannel_idle s.popped c hphase] at h
    injection h with h
    obtain ⟨hwait, ht⟩ | ⟨d, ds, i, hwait, hdecode, ht⟩ | ⟨d, ds, r, hwait, -, ht⟩ := takeUp_cases s.popped c
    · refine .hold (fun c' _ hm' => ?_) hpresent (h ▸ ht)
      rw [movesOf_unique hm' hm]
      exact hwait
    · exact .accept c d ds i hm hphase hwait hdecode (h ▸ ht)
    · exact .refuse c d ds hm hphase hwait (h ▸ ht)
  | busy =>
    cases hlatch : (s.port c).chan.latch with
    | none =>
      rw [goChannel_latchEmpty (s := s.popped) hphase hlatch] at h
      cases h
    | some i =>
      rw [goChannel_busy (s := s.popped) hphase hlatch] at h
      exact .run c i hm hphase hlatch h
  | waitTx k =>
    rw [goChannel_waitTx s.popped c k hphase] at h
    injection h with h
    refine .hold (fun c' hidle hm' => ?_) hpresent h.symm
    rw [movesOf_unique hm' hm, hphase] at hidle
    cases hidle

/-- What an answer event can do. -/
theorem stepCase_of_answer {s t : State} {k : Nat} {a : TxAnswer} {es : List Event} (he : s.inputs = .answer k a :: es)
    (h : answerCall s.popped k a = .next t) : StepCase s t := by
  obtain ⟨-, hstop⟩ | ⟨call, hcall, hphase, hend⟩ | ⟨call, -, -, hdrop⟩ := answerCall_cases s.popped k a
  · rw [hstop] at h
    cases h
  · rw [hend, finishSend_eq] at h
    injection h with h
    exact .answered k a call es he hcall hphase h.symm
  · rw [hdrop] at h
    injection h with h
    exact .hold (fun c _ hm => absurd hm (not_movesOf_of_event he (by simp) c)) (by simp [he]) h.symm

/-- Every step is one of the cases above. -/
theorem step_cases {s t : State} (h : step s = .next t) : StepCase s t := by
  cases he : s.inputs with
  | nil =>
    rw [step_own s he] at h
    obtain ⟨c, hm, hgo⟩ | ⟨hnone, hhold⟩ := ownStep_cases he
    · exact stepCase_of_go hm (by rw [State.popped_of_nil he, ← hgo, h])
    · rw [hhold] at h
      injection h with h
      refine .hold (fun c _ hm => ?_) (by simp [he]) (by rw [State.popped_of_nil he, h])
      obtain ⟨es, hgo⟩ | ⟨-, hready, -⟩ := hm
      · simp [he] at hgo
      · simp [hnone c] at hready
  | cons e es =>
    rw [step_event s e es he, ← State.popped_of_cons he] at h
    cases e with
    | present c d =>
      injection h with h
      exact .present c d es he h.symm
    | go c => exact stepCase_of_go (.inl ⟨es, he⟩) h
    | answer k a => exact stepCase_of_answer he h
    | reset =>
      injection h with h
      exact .reset es he h.symm

end Sys2Proof.Machine
end

/-! ## The transition table and the waiting lists (R25, R163) -/

section
namespace Sys2Proof.Machine

/-- T2, T3 and T4: the row of the BUSY channel that runs its latched request. -/
theorem channelMove_of_run {s t : State} {c : Nat} {i : Instr} (hphase : (s.port c).chan.phase = .busy)
    (hlatch : (s.port c).chan.latch = some i) (h : exec i { s.popped with cur := c } = .next t) : ChannelMove s t c := by
  obtain ⟨dst, src, proto, p, rfl, rfl⟩ | ⟨dst, src, proto, p, rfl, hp, rfl⟩ | ⟨dst, src, proto, p, rfl, hp, rfl⟩ :=
    exec_cases h
  · exact .t2 dst src proto p hphase hlatch (by simp) rfl
  · exact .t3 dst src proto p hphase hlatch hp (by simp) rfl
  · exact .t4 dst src proto p hphase hlatch hp (by simp [hlatch]) rfl

theorem channelMove_hold_of_port {s t : State} {c : Nat} (h : t.port c = s.port c) : ChannelMove s t c :=
  .hold (by rw [h]) (by rw [h])

/-- T5 and T6: the row of the channel whose call is answered. -/
theorem channelMove_of_answer {s t : State} {k : Nat} {a : TxAnswer} {call : TxCall} {es : List Event}
    (he : s.inputs = .answer k a :: es) (hcall : s.txLog[k]? = some call)
    (hphase : (s.port call.channel).chan.phase = .waitTx k)
    (ht : t = respond { s.popped with cur := call.channel, txLog := s.txLog.set k { call with answer := some a } }
      (answerResponse a)) : ChannelMove s t call.channel := by
  subst ht
  cases a with
  | ack => exact .t5 k call es he hphase hcall rfl (by simp [answerResponse]) rfl
  | failure e => exact .t6 k call e es he hphase hcall rfl (by simp [answerResponse]) rfl

/-- Every channel holds or follows a row of R25's table. -/
theorem channelMove_of_stepCase {s t : State} (h : StepCase s t) (c : Nat) : ChannelMove s t c := by
  cases h with
  | hold _ _ ht => exact channelMove_hold_of_port (by rw [ht, State.popped_port])
  | present c' d es he ht =>
    obtain rfl | hne := eq_or_ne c c'
    · exact .hold (by simp [ht]) (by simp [ht])
    · exact channelMove_hold_of_port (by simp [ht, hne])
  | accept c' d ds i hm hphase hwait hdecode ht =>
    obtain rfl | hne := eq_or_ne c c'
    · exact .t1 d ds i hphase hwait hdecode (by simp [ht, Channel.accepted]) (by simp [ht])
    · exact channelMove_hold_of_port (by simp [ht, hne])
  | refuse c' d ds hm hphase hwait ht =>
    obtain rfl | hne := eq_or_ne c c'
    · exact .hold (by simp [ht]) (by simp [ht])
    · exact channelMove_hold_of_port (by simp [ht, hne])
  | run c' i hm hphase hlatch ht =>
    obtain rfl | hne := eq_or_ne c c'
    · exact channelMove_of_run hphase hlatch ht
    · exact channelMove_hold_of_port (exec_port_other ht hne)
  | answered k a call es he hcall hphase ht =>
    obtain rfl | hne := eq_or_ne c call.channel
    · exact channelMove_of_answer he hcall hphase ht
    · exact channelMove_hold_of_port (by simp [ht, hne])
  | reset es he ht => exact .t7 es he (by simp [ht, resetPort]) (by simp [ht])

/-- A step that presents nothing at `c` and is no move of an IDLE `c` has only to keep the list. -/
theorem waitingMove_of_kept {s t : State} {c : Nat} (hpresent : ∀ d es, s.inputs ≠ .present c d :: es)
    (hidle : (s.port c).chan.phase = .idle → ¬ s.movesOf c) (h : (t.port c).waiting = (s.port c).waiting) :
    WaitingMove s t c where
  presented d es he := absurd he (hpresent d es)
  takenUp hphase hm := absurd hm (hidle hphase)
  kept _ _ := h

/-- An IDLE channel's own move has only to take up the head. -/
theorem waitingMove_of_takenUp {s t : State} {c : Nat} (hphase : (s.port c).chan.phase = .idle) (hm : s.movesOf c)
    (h : (t.port c).waiting = (s.port c).waiting.tail) : WaitingMove s t c where
  presented d es he := absurd he (inputs_ne_present_of_movesOf hm c d es)
  takenUp _ _ := h
  kept _ hno := absurd ⟨hphase, hm⟩ hno

/-- A channel other than the mover has only to keep its list. -/
theorem waitingMove_of_other {s t : State} {c c' : Nat} (hm : s.movesOf c') (hne : c ≠ c')
    (h : (t.port c).waiting = (s.port c).waiting) : WaitingMove s t c :=
  waitingMove_of_kept (inputs_ne_present_of_movesOf hm c) (fun _ hm' => hne (movesOf_unique hm' hm)) h

/-- The event of a step that lets no channel go and presents nothing keeps every list. -/
theorem waitingMove_of_event {s t : State} {e : Event} {es : List Event} (he : s.inputs = e :: es)
    (hgo : ∀ c, e ≠ .go c) (c : Nat) (hpresent : ∀ d, e ≠ .present c d)
    (h : (t.port c).waiting = (s.port c).waiting) : WaitingMove s t c :=
  waitingMove_of_kept (fun d _ he' => hpresent d (List.cons.inj (he.symm.trans he')).1)
    (fun _ => not_movesOf_of_event he hgo c) h

/-- Every waiting list is kept, or gains a presented descriptor, or loses its head to an IDLE channel's own move. -/
theorem waitingMove_of_stepCase {s t : State} (h : StepCase s t) (c : Nat) : WaitingMove s t c := by
  cases h with
  | hold hidle hpresent ht =>
    by_cases hm : (s.port c).chan.phase = .idle ∧ s.movesOf c
    · obtain ⟨hphase, hm⟩ := hm
      exact waitingMove_of_takenUp hphase hm (by simp [ht, hidle c hphase hm])
    · exact waitingMove_of_kept (hpresent c) (fun hphase hm' => hm ⟨hphase, hm'⟩) (by simp [ht])
  | present c' d es he ht =>
    obtain rfl | hne := eq_or_ne c c'
    · have hjoin : (t.port c).waiting = (s.port c).waiting ++ [d] := by simp [ht]
      exact ⟨fun d' _ he' => by
        rw [he] at he'
        cases he'
        exact hjoin, fun _ hm => absurd hm (not_movesOf_of_event he (by simp) c),
        fun hno => absurd he (hno d es)⟩
    · exact waitingMove_of_event he (by simp) c (by simp [hne.symm]) (by simp [ht, hne])
  | accept c' d ds i hm hphase hwait hdecode ht =>
    obtain rfl | hne := eq_or_ne c c'
    · exact waitingMove_of_takenUp hphase hm (by simp [ht, hwait])
    · exact waitingMove_of_other hm hne (by simp [ht, hne])
  | refuse c' d ds hm hphase hwait ht =>
    obtain rfl | hne := eq_or_ne c c'
    · exact waitingMove_of_takenUp hphase hm (by simp [ht, hwait])
    · exact waitingMove_of_other hm hne (by simp [ht, hne])
  | run c' i hm hphase hlatch ht =>
    obtain rfl | hne := eq_or_ne c c'
    · exact waitingMove_of_kept (inputs_ne_present_of_movesOf hm c) (by simp [hphase]) (exec_waiting ht)
    · exact waitingMove_of_other hm hne (congrArg Port.waiting (exec_port_other ht hne))
  | answered k a call es he hcall hphase ht =>
    refine waitingMove_of_event he (by simp) c (by simp) ?_
    obtain rfl | hne := eq_or_ne c call.channel
    · simp [ht]
    · simp [ht, hne]
  | reset es he ht => exact waitingMove_of_event he (by simp) c (by simp) (by simp [ht, resetPort])

/-- Settles O27: every case of a step is a row of R25's table for each channel, and moves each waiting list as stated. -/
theorem movesFollowTransitionTable : Obligations.MovesFollowTransitionTable := by
  unfold Obligations.MovesFollowTransitionTable
  intro s t h c
  exact ⟨channelMove_of_stepCase (step_cases h) c, waitingMove_of_stepCase (step_cases h) c⟩

/-- Settles O26: of the table's rows, T1 alone writes the latch; T2, T3 and T5 to T7 empty it. -/
theorem latchWrittenOnlyAtAcceptance : Obligations.LatchWrittenOnlyAtAcceptance := by
  unfold Obligations.LatchWrittenOnlyAtAcceptance
  intro s t h c
  cases channelMove_of_stepCase (step_cases h) c with
  | hold hchan _ => exact .inl (by rw [hchan])
  | t1 d ds i hphase hwait hdecode ht _ =>
    exact .inr (.inr ⟨d, ds, i, hphase, hwait, hdecode, by simp [ht], by simp [ht]⟩)
  | t2 _ _ _ _ _ _ ht _ => exact .inr (.inl (by simp [ht, Channel.reset]))
  | t3 _ _ _ _ _ _ _ ht _ => exact .inr (.inl (by simp [ht, Channel.reset]))
  | t4 _ _ _ _ _ hlatch _ ht _ => exact .inl (by rw [ht, hlatch])
  | t5 _ _ _ _ _ _ _ ht _ => exact .inr (.inl (by simp [ht, Channel.reset]))
  | t6 _ _ _ _ _ _ _ _ ht _ => exact .inr (.inl (by simp [ht, Channel.reset]))
  | t7 _ _ ht _ => exact .inr (.inl (by simp [ht, Channel.reset]))

end Sys2Proof.Machine
end

/-! ## The invariant and the transmit log -/

section
namespace Sys2Proof.Machine

theorem channelOk_reset (log : List TxCall) (c : Nat) : ChannelOk log c Channel.reset := ⟨rfl, rfl, rfl⟩

theorem channelOk_accepted (log : List TxCall) (c : Nat) (i : Instr) : ChannelOk log c (Channel.accepted i) :=
  ⟨rfl, rfl, i, rfl⟩

/-- A waiting channel's call is in the log, its own and unanswered. -/
theorem ChannelOk.own_call {log : List TxCall} {c k : Nat} {ch : Channel} (h : ChannelOk log c ch)
    (hphase : ch.phase = .waitTx k) : ∃ call, log[k]? = some call ∧ call.channel = c ∧ call.answer = none := by
  obtain ⟨-, -, hwait⟩ := h
  rw [hphase] at hwait
  obtain ⟨_, _, _, _, -, -, hcall⟩ := hwait
  exact ⟨_, hcall, rfl, rfl⟩

/-- `ChannelOk` reads of the log only the entry of the channel's own call. -/
theorem ChannelOk.of_log {log log' : List TxCall} {c : Nat} {ch : Channel} (h : ChannelOk log c ch)
    (hlog : ∀ (k : Nat) (call : TxCall), log[k]? = some call → call.channel = c → log'[k]? = some call) : ChannelOk log' c ch := by
  obtain ⟨hfbuf, hacc, hrest⟩ := h
  refine ⟨hfbuf, hacc, ?_⟩
  cases hphase : ch.phase with
  | idle => simpa [hphase] using hrest
  | busy => simpa [hphase] using hrest
  | waitTx k =>
    rw [hphase] at hrest
    obtain ⟨dst, src, proto, p, hlatch, hp, hcall⟩ := hrest
    exact ⟨dst, src, proto, p, hlatch, hp, hlog k _ hcall rfl⟩

/-- An entry of the log stays where it is when a call is added. -/
theorem getElem?_append_singleton_of_some {log : List TxCall} {call call' : TxCall} {k : Nat}
    (h : log[k]? = some call) : (log ++ [call'])[k]? = some call := by
  obtain ⟨hk, -⟩ := List.getElem?_eq_some_iff.1 h
  exact (List.getElem?_append_left hk).trans h

/-- Recording an answer leaves the entries of every other channel. -/
theorem getElem?_set_of_other_channel {log : List TxCall} {k k' : Nat} {call call' : TxCall} {a : TxAnswer}
    (hcall : log[k]? = some call) (hcall' : log[k']? = some call') (hne : call'.channel ≠ call.channel) :
    (log.set k { call with answer := some a })[k']? = some call' := by
  have hkk : k ≠ k' := by
    rintro rfl
    rw [hcall] at hcall'
    exact hne (Option.some.inj hcall' ▸ rfl)
  rw [List.getElem?_set_ne hkk, hcall']

/-- The invariant after a step that changes one port and perhaps the log. -/
theorem State.Inv.of_one_port {s t : State} (hs : s.Inv) (c : Nat) (hother : ∀ c', c' ≠ c → t.port c' = s.port c')
    (hlog : ∀ (k : Nat) (call : TxCall), s.txLog[k]? = some call → call.channel ≠ c → t.txLog[k]? = some call)
    (hchan : ChannelOk t.txLog c (t.port c).chan) (hcalls : ∀ call ∈ t.txLog, IsFrame call.frame)
    (hresponses : ∀ r ∈ (t.port c).responses, r.whole) : t.Inv where
  channels c' := by
    obtain rfl | hne := eq_or_ne c' c
    · exact hchan
    · rw [hother c' hne]
      exact (hs.channels c').of_log fun k call hcall hc => hlog k call hcall (hc ▸ hne)
  calls := hcalls
  responses c' := by
    obtain rfl | hne := eq_or_ne c' c
    · exact hresponses
    · rw [hother c' hne]
      exact hs.responses c'

theorem State.Inv.popped {s : State} (hs : s.Inv) : s.popped.Inv := ⟨hs.channels, hs.calls, hs.responses⟩

theorem State.Inv.withCur {s : State} (hs : s.Inv) (c : Nat) : State.Inv { s with cur := c } :=
  ⟨hs.channels, hs.calls, hs.responses⟩

theorem respond_keeps_inv {s : State} (hs : s.Inv) {r : Response} (hr : r.whole) : (respond s r).Inv := by
  refine hs.of_one_port s.cur (fun c hc => respond_port_other s r c hc) (fun _ _ h _ => h) ?_ hs.calls ?_
  · rw [respond_port_cur]
    exact channelOk_reset _ _
  · rw [respond_port_cur]
    exact List.forall_mem_append.2 ⟨hs.responses s.cur, List.forall_mem_singleton.2 hr⟩

/-- The hand-off of a SEND latched by the current channel keeps the invariant (T4). -/
theorem transmit_keeps_inv {s : State} (hs : s.Inv) {dst src : HardwareAddress} {proto : ProtocolId} {p : Bytes}
    (hlatch : (s.port s.cur).chan.latch = some (.send dst src proto p)) (hp : p.length ≤ maxPayload) :
    (transmit s (frameOf dst src proto p)).Inv := by
  refine hs.of_one_port s.cur (fun c hc => transmit_port_other s _ c hc)
    (fun _ _ h _ => getElem?_append_singleton_of_some h) ?_ ?_ ?_
  · rw [transmit_port_cur]
    exact ⟨rfl, rfl, dst, src, proto, p, hlatch, hp, by simp⟩
  · exact List.forall_mem_append.2 ⟨hs.calls, List.forall_mem_singleton.2 (isFrame_frameOf hp dst src proto)⟩
  · rw [transmit_port_cur]
    exact hs.responses s.cur

theorem exec_keeps_inv {i : Instr} {s t : State} (hs : s.Inv) (hlatch : (s.port s.cur).chan.latch = some i)
    (h : exec i s = .next t) : t.Inv := by
  obtain ⟨dst, src, proto, p, -, rfl⟩ | ⟨_, _, _, _, -, -, rfl⟩ | ⟨dst, src, proto, p, rfl, hp, rfl⟩ := exec_cases h
  · exact respond_keeps_inv hs (buildResponse_whole dst src proto p)
  · exact respond_keeps_inv hs (r := .error .oversizePayload) trivial
  · exact transmit_keeps_inv hs hlatch hp

/-- The answer to the call a channel waits for keeps the invariant (T5, T6). -/
theorem answered_keeps_inv {s : State} (hs : s.Inv) {k : Nat} {call : TxCall} (a : TxAnswer)
    (hcall : s.txLog[k]? = some call) :
    (respond { s with cur := call.channel, txLog := s.txLog.set k { call with answer := some a } }
      (answerResponse a)).Inv := by
  refine hs.of_one_port call.channel (fun c hc => respond_port_other _ _ c hc)
    (fun _ _ hcall' hne => getElem?_set_of_other_channel hcall hcall' hne) ?_ ?_ ?_
  · rw [respond_mk_port]
    exact channelOk_reset _ _
  · intro call' hmem
    obtain hmem | rfl := List.mem_or_eq_of_mem_set hmem
    · exact hs.calls call' hmem
    · exact hs.calls call (List.mem_of_getElem? hcall)
  · rw [respond_mk_port]
    exact List.forall_mem_append.2 ⟨hs.responses call.channel, List.forall_mem_singleton.2 (answerResponse_whole a)⟩

theorem resetBlock_keeps_inv {s : State} (hs : s.Inv) : (resetBlock s).Inv where
  channels c := by
    rw [resetBlock_port]
    exact channelOk_reset _ _
  calls := hs.calls
  responses c := by
    rw [resetBlock_port]
    exact hs.responses c

/-- Replacing a port by one with the same responses and a good channel keeps the invariant. -/
theorem setPort_keeps_inv {s : State} (hs : s.Inv) {c : Nat} {p : Port} (hchan : ChannelOk s.txLog c p.chan)
    (hresponses : p.responses = (s.port c).responses) : (s.setPort c p).Inv := by
  refine hs.of_one_port c (fun c' hc => State.port_setPort_other s c c' p hc) (fun _ _ h _ => h) ?_ hs.calls ?_
  · rw [State.port_setPort_same]
    exact hchan
  · rw [State.port_setPort_same, hresponses]
    exact hs.responses c

/-- Settles O36, case by case of a step. -/
theorem stepKeepsInvariant : Obligations.StepKeepsInvariant := by
  unfold Obligations.StepKeepsInvariant
  intro s t hs h
  cases step_cases h with
  | hold _ _ ht => exact ht ▸ hs.popped
  | present c d es he ht => exact ht ▸ setPort_keeps_inv hs.popped (hs.channels c) rfl
  | accept c d ds i hm hphase hwait hdecode ht => exact ht ▸ setPort_keeps_inv hs.popped (channelOk_accepted _ c i) rfl
  | refuse c d ds hm hphase hwait ht =>
    have hset := setPort_keeps_inv hs.popped (p := { s.port c with waiting := ds }) (hs.channels c) rfl
    exact ht ▸ ⟨hset.channels, hset.calls, hset.responses⟩
  | run c i hm hphase hlatch ht => exact exec_keeps_inv (hs.popped.withCur c) hlatch ht
  | answered k a call es he hcall hphase ht => exact ht ▸ answered_keeps_inv hs.popped a hcall
  | reset es he ht => exact ht ▸ resetBlock_keeps_inv hs.popped

/-- Settles O37. -/
theorem resetMeetsInvariant : Obligations.ResetMeetsInvariant := by
  unfold Obligations.ResetMeetsInvariant
  refine ⟨⟨fun c => ?_, by simp [State.reset], fun c => ?_⟩, fun n hn => ⟨Nat.zero_le n, hn, ?_, ?_⟩⟩
  · rw [State.reset_port]
    exact channelOk_reset _ _
  · simp [Port.reset]
  · simp [State.reset]
  · simp [State.reset]

/-! What a step does to the transmit log and the mark. -/

/-- Each entry of `log` stands in `log'` with its channel, its frame and any answer it had. -/
def EntriesStay (log log' : List TxCall) : Prop :=
  ∀ (k : Nat) (call : TxCall), log[k]? = some call → ∃ call' : TxCall, log'[k]? = some call' ∧
    call'.channel = call.channel ∧ call'.frame = call.frame ∧ (∀ a, call.answer = some a → call'.answer = some a)

theorem entriesStay_refl (log : List TxCall) : EntriesStay log log := fun _ call h => ⟨call, h, rfl, rfl, fun _ => id⟩

theorem entriesStay_append (log : List TxCall) (call : TxCall) : EntriesStay log (log ++ [call]) :=
  fun _ call' h => ⟨call', getElem?_append_singleton_of_some h, rfl, rfl, fun _ => id⟩

/-- Recording the answer of an unanswered call keeps every entry. -/
theorem entriesStay_set {log : List TxCall} {k : Nat} {call : TxCall} (a : TxAnswer) (hcall : log[k]? = some call)
    (hopen : call.answer = none) : EntriesStay log (log.set k { call with answer := some a }) := by
  intro k' call' hcall'
  obtain rfl | hne := eq_or_ne k k'
  · obtain rfl : call = call' := Option.some.inj (hcall ▸ hcall')
    obtain ⟨hk, -⟩ := List.getElem?_eq_some_iff.1 hcall
    exact ⟨_, List.getElem?_set_self hk, rfl, rfl, by simp [hopen]⟩
  · exact ⟨call', by rw [List.getElem?_set_ne hne, hcall'], rfl, rfl, fun _ => id⟩

/-- A command makes at most one call and leaves the mark. -/
theorem exec_log_and_mark {i : Instr} {s t : State} (h : exec i s = .next t) :
    (t.txLog = s.txLog ∨ i.op = .send ∧ ∃ call, t.txLog = s.txLog ++ [call]) ∧ t.refusalMark = s.refusalMark := by
  obtain ⟨_, _, _, _, -, rfl⟩ | ⟨_, _, _, _, -, -, rfl⟩ | ⟨_, _, _, _, rfl, -, rfl⟩ := exec_cases h
  · exact ⟨.inl rfl, rfl⟩
  · exact ⟨.inl rfl, rfl⟩
  · exact ⟨.inr ⟨rfl, _, rfl⟩, rfl⟩

/-- Settles O42: by the invariant, an answer is recorded only where none is yet; nothing else touches an entry. -/
theorem logEntriesStay : Obligations.LogEntriesStay := by
  unfold Obligations.LogEntriesStay
  intro s t hs h
  change EntriesStay s.txLog t.txLog ∧ (t.unmarked → s.unmarked)
  cases step_cases h with
  | hold _ _ ht => exact ht ▸ ⟨entriesStay_refl _, id⟩
  | present c d es he ht => exact ht ▸ ⟨entriesStay_refl _, id⟩
  | accept c d ds i hm hphase hwait hdecode ht => exact ht ▸ ⟨entriesStay_refl _, id⟩
  | refuse c d ds hm hphase hwait ht => exact ht ▸ ⟨entriesStay_refl _, by simp [State.unmarked]⟩
  | run c i hm hphase hlatch ht =>
    obtain ⟨hlog, hmark⟩ := exec_log_and_mark ht
    refine ⟨?_, fun hun => hmark.symm.trans hun⟩
    obtain hlog | ⟨-, call, hlog⟩ := hlog
    · exact hlog ▸ entriesStay_refl _
    · exact hlog ▸ entriesStay_append _ call
  | answered k a call es he hcall hphase ht =>
    obtain ⟨call', hcall', -, hopen⟩ := (hs.channels call.channel).own_call hphase
    obtain rfl : call = call' := Option.some.inj (hcall ▸ hcall')
    exact ht ▸ ⟨entriesStay_set a hcall hopen, id⟩
  | reset es he ht => exact ht ▸ ⟨entriesStay_refl _, id⟩

end Sys2Proof.Machine
end

/-! ## What a command's own step leaves, and what it depends on -/

section
namespace Sys2Proof.Machine

theorem peek_of_port {s t : State} {c : Nat} (h : t.port c = s.port c) (sp : Space) (off : Nat) :
    t.peek c sp off = s.peek c sp off := by
  cases sp <;> simp only [State.peek, h]

theorem peek_pay_of_latch {s t : State} {c : Nat} (h : (t.port c).chan.latch = (s.port c).chan.latch) (off : Nat) :
    t.peek c .pay off = s.peek c .pay off := by
  simp only [State.peek, h]

/-- A command only adds to its channel's responses. -/
theorem exec_responses_prefix {i : Instr} {s t : State} (h : exec i s = .next t) :
    (s.port s.cur).responses <+: (t.port s.cur).responses := by
  obtain ⟨_, _, _, _, -, rfl⟩ | ⟨_, _, _, _, -, -, rfl⟩ | ⟨_, _, _, _, -, -, rfl⟩ := exec_cases h <;> simp

theorem exec_inputs_and_cur {i : Instr} {s t : State} (h : exec i s = .next t) :
    t.inputs = s.inputs ∧ t.cur = s.cur := by
  obtain ⟨_, _, _, _, -, rfl⟩ | ⟨_, _, _, _, -, -, rfl⟩ | ⟨_, _, _, _, -, -, rfl⟩ := exec_cases h <;> exact ⟨rfl, rfl⟩

/-- A command that does not end its transaction keeps the latch. -/
theorem exec_latch_of_not_idle {i : Instr} {s t : State} (h : exec i s = .next t)
    (hphase : (t.port s.cur).chan.phase ≠ .idle) : (t.port s.cur).chan.latch = (s.port s.cur).chan.latch := by
  obtain ⟨_, _, _, _, -, rfl⟩ | ⟨_, _, _, _, -, -, rfl⟩ | ⟨_, _, _, _, -, -, rfl⟩ := exec_cases h
  · simp [Channel.reset] at hphase
  · simp [Channel.reset] at hphase
  · simp

/-- Settles O17: the frame of each part of the state, by the three things a command can do. -/
theorem commandsFrame : Obligations.CommandsFrame := by
  unfold Obligations.CommandsFrame
  intro i s t h
  obtain ⟨hlog, hmark⟩ := exec_log_and_mark h
  obtain ⟨hinputs, hcur⟩ := exec_inputs_and_cur h
  refine ⟨fun c hc => exec_port_other h hc, fun c sp off hc => peek_of_port (exec_port_other h hc) sp off,
    exec_waiting h, exec_responses_prefix h, ?_, fun hbuild => ?_, hmark, hinputs, hcur, fun hphase => ?_⟩
  · obtain hlog | ⟨-, call, hlog⟩ := hlog
    · rw [hlog]
    · exact hlog ▸ List.prefix_append _ _
  · obtain hlog | ⟨hsend, -⟩ := hlog
    · exact hlog
    · rw [hbuild] at hsend
      cases hsend
  · have hlatch := exec_latch_of_not_idle h hphase
    exact ⟨hlatch, peek_pay_of_latch hlatch⟩

/-- The responses and the frames that a command adds, from its operands alone. -/
def Instr.outcome : Instr → List Response × List Bytes
  | .build dst src proto p => ([buildResponse dst src proto p], [])
  | .send dst src proto p =>
    if maxPayload < p.length then ([.error .oversizePayload], []) else ([], [frameOf dst src proto p])

/-- In every state a command completes and adds exactly its `outcome`. -/
theorem exec_outcome (i : Instr) (s : State) : ∃ t, exec i s = .next t ∧
    (t.port s.cur).responses = (s.port s.cur).responses ++ (Instr.outcome i).1 ∧
    t.txLog.map TxCall.frame = s.txLog.map TxCall.frame ++ (Instr.outcome i).2 := by
  cases i with
  | build dst src proto p => exact ⟨_, exec_build dst src proto p s, by simp [Instr.outcome], by simp [Instr.outcome]⟩
  | send dst src proto p =>
    obtain hp | hp := Nat.lt_or_ge maxPayload p.length
    · exact ⟨_, exec_send_oversize hp dst src proto s, by simp [Instr.outcome, hp], by simp [Instr.outcome, hp]⟩
    · have hp' := Nat.not_lt.2 hp
      exact ⟨_, exec_send_accepted hp dst src proto s, by simp [Instr.outcome, hp'], by simp [Instr.outcome, hp']⟩

/-- Settles O18: the outcome is a function of the request. -/
theorem outcomeDependsOnOperandsOnly : Obligations.OutcomeDependsOnOperandsOnly := by
  unfold Obligations.OutcomeDependsOnOperandsOnly
  intro i s t
  obtain ⟨s', hs, hsr, hsl⟩ := exec_outcome i s
  obtain ⟨t', ht, htr, htl⟩ := exec_outcome i t
  exact ⟨s', t', _, _, hs, ht, hsr, htr, hsl, htl⟩

end Sys2Proof.Machine
end

/-! ## The decoder inverts the encoder -/

section
namespace Sys2Proof

/-- The big-endian PLEN of a well-formed request's descriptor is its payload's length (R43, R63). -/
theorem plenOf_encode {i : Instr} (h : i.wf = true) : plenOf (encode i) = i.payload.length :=
  fromBe16_be16 _ (of_decide_eq_true h)

/-- The bytes after the fixed part of a descriptor are the payload (R60). -/
theorem drop_encode (i : Instr) : (encode i).drop 17 = i.payload := rfl

theorem payloadOf_encode {i : Instr} (h : i.wf = true) : payloadOf (encode i) = i.payload := by
  rw [payloadOf, slice, drop_encode, plenOf_encode h, Nat.add_sub_cancel_left, List.take_length]

/-- The descriptor of any request that a descriptor can carry decodes to that request (R60, R63). -/
theorem decode_encode {i : Instr} (h : i.wf = true) : decode (encode i) = .ok i := by
  refine (decode_ok_iff _ _).2 ⟨i.op, _, rfl, ?_, ?_, ?_⟩
  · rw [length_encode]
    exact Nat.le_add_right _ _
  · rw [length_encode, plenOf_encode h]
  · rw [payloadOf_encode h]
    exact (Instr.ofCommand_fields i).symm

end Sys2Proof
end

/-! ## Steps of one channel, and runs of BUILDs -/

section
namespace Sys2Proof.Machine

/-- A BUSY channel below which no channel is ready is the next mover of a run with nothing scripted. -/
theorem movesOf_of_busy {s : State} {c : Nat} (he : s.inputs = []) (hphase : (s.port c).chan.phase = .busy)
    (hlow : ∀ c', c' < c → (s.port c').ready = false) : s.movesOf c :=
  .inr ⟨he, ready_of_busy hphase, hlow⟩

/-- A BUSY channel's own move runs its latched request. -/
theorem step_busy {s : State} {c : Nat} {i : Instr} (hm : s.movesOf c) (hphase : (s.port c).chan.phase = .busy)
    (hlatch : (s.port c).chan.latch = some i) : step s = exec i { s.popped with cur := c } := by
  rw [step_of_movesOf hm, goChannel_busy (s := s.popped) hphase hlatch]

/-- The move of an IDLE channel whose oldest descriptor is well-formed accepts it (T1). -/
theorem step_accepts {s : State} {c : Nat} {d : Bytes} {ds : List Bytes} {i : Instr} (hm : s.movesOf c)
    (hphase : (s.port c).chan.phase = .idle) (hwait : (s.port c).waiting = d :: ds) (hdecode : decode d = .ok i) :
    step s = .next (s.acceptedAt c i ds) := by
  rw [step_of_movesOf hm, goChannel_idle s.popped c hphase]
  simp only [takeUp, State.popped_port, hwait, hdecode, State.acceptedAt]

/-- The second of two scripted moves of the channel runs the request that the first has accepted. -/
theorem step_acceptedAt {s : State} {c : Nat} {es : List Event} (he : s.inputs = .go c :: .go c :: es) (i : Instr)
    (ds : List Bytes) : step (s.acceptedAt c i ds) = exec i { s.acceptedAt c i ds with inputs := es, cur := c } := by
  have hinputs : (s.acceptedAt c i ds).inputs = .go c :: es := by simp [he]
  rw [step_busy (.inl ⟨es, hinputs⟩) (by rw [State.acceptedAt_port_same]; rfl) (by rw [State.acceptedAt_port_same]; rfl),
    State.popped_of_cons hinputs]

/-- Settles O24: by `step_busy` in both kinds of move, and `step_accepts` before it. -/
theorem stepRunsDecodedRequest : Obligations.StepRunsDecodedRequest := by
  unfold Obligations.StepRunsDecodedRequest
  refine ⟨fun s c es i he hphase hlatch => ?_, fun s c i he hphase hlatch hlow => ?_,
    fun s c es d ds i he hphase hwait hdecode => ?_⟩
  · rw [step_busy (.inl ⟨es, he⟩) hphase hlatch, State.popped_of_cons he]
  · rw [step_busy (movesOf_of_busy he hphase hlow) hphase hlatch, State.popped_of_nil he]
  · refine ⟨_, step_accepts (.inl ⟨_, he⟩) hphase hwait hdecode, ?_, step_acceptedAt he i ds⟩
    rw [State.acceptedAt, State.popped_of_cons he]
    rfl

/-- Settles O35. -/
theorem emptyLatchReadFaults : Obligations.EmptyLatchReadFaults := by
  unfold Obligations.EmptyLatchReadFaults
  intro s c es he hphase hlatch
  rw [step_of_movesOf (.inl ⟨es, he⟩), goChannel_latchEmpty (s := s.popped) hphase hlatch]

/-- Settles O34: every port of the reset state is an unused one. -/
theorem resetValues : Obligations.ResetValues := by
  unfold Obligations.ResetValues
  intro c
  rw [State.reset_port]
  exact ⟨rfl, rfl, rfl, rfl⟩

/-- Settles O47: presenting changes the waiting list of one port. -/
theorem presentedRequestWaits : Obligations.PresentedRequestWaits := by
  unfold Obligations.PresentedRequestWaits
  intro s c d es he
  exact ⟨presentRequest { s with inputs := es } c d, step_event s _ es he, by simp, by simp, by simp,
    fun c' hc => by simp [hc], rfl, rfl, rfl⟩

/-- A run takes its first step and goes on from there. -/
theorem run_succ {s s' : State} (h : step s = .next s') (k : Nat) :
    Sys2Proof.core.run (k + 1) s = Sys2Proof.core.run k s' := by
  have hcore : Sys2Proof.core.step s = .next s' := h
  simp only [Host.Core.run, hcore]

/-- A BUILD waiting first at an IDLE channel that is let go twice is answered, and nothing else changes but the events. -/
theorem run_build {s : State} {c : Nat} {es : List Event} {ds : List Bytes} {dst src : HardwareAddress}
    {proto : ProtocolId} {p : Bytes} (hp : p.length ≤ maxPlen) (hchan : (s.port c).chan = Channel.reset)
    (hwait : (s.port c).waiting = encode (.build dst src proto p) :: ds) (he : s.inputs = .go c :: .go c :: es) :
    ∃ t, (∀ k, Sys2Proof.core.run (k + 2) s = Sys2Proof.core.run k t) ∧
      t.port c = { chan := Channel.reset, waiting := ds,
                   responses := (s.port c).responses ++ [buildResponse dst src proto p] } ∧
      t.txLog = s.txLog ∧ t.refusalMark = s.refusalMark ∧ t.inputs = es ∧ ∀ c', c' ≠ c → t.port c' = s.port c' := by
  have hdecode : decode (encode (.build dst src proto p)) = .ok (.build dst src proto p) :=
    decode_encode (decide_eq_true hp)
  have haccept := step_accepts (.inl ⟨_, he⟩) (by rw [hchan]; rfl) hwait hdecode
  have hrun := step_acceptedAt he (.build dst src proto p) ds
  rw [exec_build] at hrun
  exact ⟨_, fun k => (run_succ haccept (k + 1)).trans (run_succ hrun k), by simp, rfl, rfl, rfl,
    fun c' hc => by simp [hc]⟩

/-- Settles O45, by induction on the list of requests: `run_build` answers the first and leaves the rest waiting. -/
theorem buildsAnsweredInOrder : Obligations.BuildsAnsweredInOrder := by
  unfold Obligations.BuildsAnsweredInOrder
  intro reqs
  induction reqs with
  | nil =>
    intro s c _ hchan hwait _
    refine ⟨s, rfl, ?_, rfl, rfl, fun _ _ => rfl⟩
    rw [List.map_nil] at hwait
    rw [List.map_nil, List.append_nil, ← hchan, ← hwait]
  | cons q qs ih =>
    intro s c hlen hchan hwait he
    obtain ⟨hq, hqs⟩ := List.forall_mem_cons.1 hlen
    obtain ⟨u, hrun, hport, hlog, hmark, hinputs, hother⟩ := run_build hq hchan hwait he
    obtain ⟨t, hrun', hport', hlog', hmark', hother'⟩ := ih u c hqs (by rw [hport]) (by rw [hport]) hinputs
    refine ⟨t, (hrun _).trans hrun', ?_, hlog'.trans hlog, hmark'.trans hmark,
      fun c' hc => (hother' c' hc).trans (hother c' hc)⟩
    rw [hport', hport]
    simp

end Sys2Proof.Machine
end

/-! ## The fields of a built frame (R41, R42, R47) -/

section
namespace Sys2Proof.Machine

/-- A BUILD returns R80's frame of its operands when it accepts the payload, and no other frame ever. -/
theorem returnsFrame_build_iff {dst src : HardwareAddress} {proto : ProtocolId} {p f : Bytes} {s : State} :
    ReturnsFrame (.build dst src proto p) s f ↔ p.length ≤ maxPayload ∧ f = frameOf dst src proto p := by
  constructor
  · rintro ⟨t, ht, hresponses⟩
    rw [exec_build] at ht
    obtain rfl := Host.Outcome.next.inj ht
    rw [respond_port_cur] at hresponses
    have hframe : buildResponse dst src proto p = .frame f := List.singleton_inj.1 (List.append_cancel_left hresponses)
    obtain hp | hp := Nat.lt_or_ge maxPayload p.length
    · rw [buildResponse_oversize hp] at hframe
      cases hframe
    · rw [buildResponse_accepted hp] at hframe
      cases hframe
      exact ⟨hp, rfl⟩
  · rintro ⟨hp, rfl⟩
    exact ⟨_, exec_build dst src proto p s, by rw [respond_port_cur, buildResponse_accepted hp]⟩

/-- Settles O11: both commands make `frameOf` of their operands. -/
theorem sentFrameIsBuiltFrame : Obligations.SentFrameIsBuiltFrame := by
  unfold Obligations.SentFrameIsBuiltFrame
  intro dst src proto p s t f hbuilt
  obtain ⟨hp, rfl⟩ := returnsFrame_build_iff.1 hbuilt
  exact ⟨_, exec_send_accepted hp dst src proto t, transmit_txLog t _⟩

/-- The slice of three joined sequences that begins and ends with the middle one is the middle one. -/
theorem slice_append_middle {a b : Bytes} (c : Bytes) {i j : Nat} (hi : a.length = i) (hj : i + b.length = j) :
    slice (a ++ b ++ c) i j = b := by
  subst hi hj
  simp [slice]

section frame
variable (dst src : HardwareAddress) (proto : ProtocolId) (p : Bytes)

theorem slice_frameOf_dst : slice (frameOf dst src proto p) 0 6 = dst.toBytes := rfl

theorem slice_frameOf_src : slice (frameOf dst src proto p) 6 12 = src.toBytes := rfl

theorem slice_frameOf_proto : slice (frameOf dst src proto p) 12 14 = proto.toBytes := rfl

theorem slice_frameOf_payload : slice (frameOf dst src proto p) 14 (14 + p.length) = p := by
  rw [frameOf, bodyOf, List.append_assoc]
  exact slice_append_middle _ rfl rfl

theorem slice_frameOf_padding :
    slice (frameOf dst src proto p) (14 + p.length) (14 + max p.length 46) = zeros (max p.length 46 - p.length) := by
  refine slice_append_middle _ ?_ ?_
  · rw [List.length_append]
    rfl
  · rw [length_zeros, minData]
    omega

theorem slice_frameOf_body : slice (frameOf dst src proto p) 0 (14 + max p.length 46) = bodyOf dst src proto p :=
  slice_append_middle (a := []) _ rfl ((Nat.zero_add _).trans (length_bodyOf dst src proto p))

theorem slice_frameOf_fcs : slice (frameOf dst src proto p) (14 + max p.length 46) (frameOf dst src proto p).length =
    le32 (crc32 (bodyOf dst src proto p)) := by
  rw [length_frameOf, frameOf, ← List.append_nil (_ ++ le32 _)]
  exact slice_append_middle _ (length_bodyOf dst src proto p) rfl

/-- The checksum field begins where the body ends. -/
theorem length_frameOf_sub_four : (frameOf dst src proto p).length - 4 = (bodyOf dst src proto p).length := by
  rw [length_frameOf, length_bodyOf, Nat.add_sub_cancel]

theorem take_frameOf_length_sub_four :
    (frameOf dst src proto p).take ((frameOf dst src proto p).length - 4) = bodyOf dst src proto p := by
  rw [length_frameOf_sub_four]
  exact List.take_left

/-- The last four bytes of a frame are its checksum field's (R42). -/
theorem getElem?_frameOf_fcs {k : Nat} (hk : k ≤ 4) :
    (frameOf dst src proto p)[(frameOf dst src proto p).length - k]? = (le32 (crc32 (bodyOf dst src proto p)))[4 - k]? := by
  have hsplit : (frameOf dst src proto p).length - k = (bodyOf dst src proto p).length + (4 - k) := by
    rw [length_frameOf, length_bodyOf]
    omega
  rw [hsplit, frameOf, List.getElem?_append_right (Nat.le_add_right _ _), Nat.add_sub_cancel_left]

end frame

/-- Settles O12, field by field of the frame. -/
theorem frameOffsetMap : Obligations.FrameOffsetMap := by
  unfold Obligations.FrameOffsetMap
  intro dst src proto p s hp
  have hlength := length_frameOf dst src proto p
  refine ⟨frameOf dst src proto p, returnsFrame_build_iff.2 ⟨hp, rfl⟩, hlength, by omega, by omega,
    slice_frameOf_dst dst src proto p, slice_frameOf_src dst src proto p, slice_frameOf_proto dst src proto p,
    slice_frameOf_payload dst src proto p, slice_frameOf_padding dst src proto p, ?_⟩
  rw [slice_frameOf_body]
  exact slice_frameOf_fcs dst src proto p

/-- Settles O13: the protocol id stands in the header as given, and the checksum field is `le32` of the body's CRC. -/
theorem frameByteOrder : Obligations.FrameByteOrder := by
  unfold Obligations.FrameByteOrder
  intro dst src proto p s hp
  refine ⟨frameOf dst src proto p, returnsFrame_build_iff.2 ⟨hp, rfl⟩, slice_frameOf_dst dst src proto p,
    slice_frameOf_src dst src proto p, rfl, rfl, rfl, ?_⟩
  rw [take_frameOf_length_sub_four]
  exact ⟨getElem?_frameOf_fcs dst src proto p (by decide), getElem?_frameOf_fcs dst src proto p (by decide),
    getElem?_frameOf_fcs dst src proto p (by decide), getElem?_frameOf_fcs dst src proto p (by decide)⟩

end Sys2Proof.Machine
end

/-! ## A channel's move: it never stops, and it is the channel's own affair (R49) -/

section
namespace Sys2Proof.Machine

theorem ChannelOk.latched {log : List TxCall} {c : Nat} {ch : Channel} (h : ChannelOk log c ch)
    (hphase : ch.phase = .busy) : ∃ i, ch.latch = some i := by
  obtain ⟨-, -, hbusy⟩ := h
  rwa [hphase] at hbusy

/-- The move of a channel that the invariant holds of completes: only an empty latch could stop it. -/
theorem goChannel_completes {log : List TxCall} {s : State} {c : Nat} (h : ChannelOk log c (s.port c).chan) :
    ∃ t, goChannel s c = .next t := by
  cases hphase : (s.port c).chan.phase with
  | idle => exact ⟨_, goChannel_idle s c hphase⟩
  | busy =>
    obtain ⟨i, hlatch⟩ := h.latched hphase
    obtain ⟨t, ht, -⟩ := exec_outcome i { s with cur := c }
    exact ⟨t, (goChannel_busy hphase hlatch).trans ht⟩
  | waitTx k => exact ⟨_, goChannel_waitTx s c k hphase⟩

theorem answerCall_completes {s : State} {k : Nat} (hk : k < s.txLog.length) (a : TxAnswer) :
    ∃ t, answerCall s k a = .next t := by
  obtain ⟨hnone, -⟩ | ⟨_, -, -, hend⟩ | ⟨_, -, -, hdrop⟩ := answerCall_cases s k a
  · exact absurd (List.getElem?_eq_none_iff.1 hnone) (Nat.not_le.2 hk)
  · exact ⟨_, hend⟩
  · exact ⟨_, hdrop⟩

/-- Settles O38: of a step's parts only a channel's move and an answer could stop. -/
theorem stepNeverStops : Obligations.StepNeverStops := by
  unfold Obligations.StepNeverStops
  intro s hs hanswers
  cases he : s.inputs with
  | nil =>
    rw [step_own s he]
    obtain ⟨c, -, hgo⟩ | ⟨-, hhold⟩ := ownStep_cases he
    · rw [hgo]
      exact goChannel_completes (hs.channels c)
    · exact ⟨s, hhold⟩
  | cons e es =>
    rw [step_event s e es he]
    cases e with
    | present c d => exact ⟨_, rfl⟩
    | go c => exact goChannel_completes (hs.channels c)
    | answer k a => exact answerCall_completes (s := { s with inputs := es }) (hanswers k a es he) a
    | reset => exact ⟨_, rfl⟩

/-- From `s` to `t` channel `c` has moved: its port is now `p`, up to the number of its call, the log has gained `calls`, the mark
is set if it was or if a descriptor was `refused`, and nothing else has changed but `cur`. -/
structure Moved (s t : State) (c : Nat) (p : Port) (calls : List TxCall) (refused : Bool) : Prop where
  port : (t.port c).forgetCall = p
  other : ∀ c', c' ≠ c → t.port c' = s.port c'
  log : t.txLog = s.txLog ++ calls
  mark : t.refusalMark = (s.refusalMark || refused)
  inputs : t.inputs = s.inputs

theorem moved_refl (s : State) (c : Nat) : Moved s s c (s.port c).forgetCall [] false :=
  ⟨rfl, fun _ _ => rfl, (List.append_nil _).symm, (Bool.or_false _).symm, rfl⟩

theorem moved_setPort (s : State) (c : Nat) (p : Port) : Moved s (s.setPort c p) c p.forgetCall [] false :=
  ⟨by rw [State.port_setPort_same], fun c' hc => State.port_setPort_other s c c' p hc, (List.append_nil _).symm,
    (Bool.or_false _).symm, rfl⟩

/-- A refused descriptor leaves the waiting list and sets the mark (R65). -/
theorem moved_refused (s : State) (c : Nat) (p : Port) :
    Moved s { s.setPort c p with refusalMark := true } c p.forgetCall [] true :=
  ⟨congrArg Port.forgetCall (State.port_setPort_same s c p), fun c' hc => State.port_setPort_other s c c' p hc,
    (List.append_nil _).symm, (Bool.or_true _).symm, rfl⟩

/-- The end of a transaction (T2, T3). -/
theorem moved_respond (s : State) (c : Nat) (r : Response) : Moved s (respond { s with cur := c } r) c
    { chan := Channel.reset, waiting := (s.port c).waiting, responses := (s.port c).responses ++ [r] } [] false :=
  ⟨congrArg Port.forgetCall (respond_mk_port _ _ _ _ _ _), fun c' hc => respond_port_other _ r c' hc,
    (List.append_nil _).symm, (Bool.or_false _).symm, rfl⟩

/-- The hand-off, with the call's number forgotten (T4). -/
theorem moved_transmit (s : State) (c : Nat) (f : Bytes) : Moved s (transmit { s with cur := c } f) c
    { s.port c with chan := { phase := .waitTx 0, latch := (s.port c).chan.latch, fbuf := [], crcAcc := none } }
    [{ channel := c, frame := f, answer := none }] false :=
  ⟨congrArg Port.forgetCall (transmit_mk_port _ _ _ _ _ _), fun c' hc => transmit_port_other _ f c' hc, rfl,
    (Bool.or_false _).symm, rfl⟩

/-- In every state where channel `c` has port `q`, a move of `c` that completes has this same effect. -/
def MoveEffect (c : Nat) (q p : Port) (calls : List TxCall) (refused : Bool) : Prop :=
  ∀ s t : State, s.port c = q → goChannel s c = .next t → Moved s t c p calls refused

/-- A move whose next state is known, as a function of the state, has the effect that this function has. -/
theorem moveEffect_of_next {c : Nat} {q p : Port} {calls : List TxCall} {refused : Bool} (next : State → State)
    (hgo : ∀ s, s.port c = q → goChannel s c = .next (next s))
    (hmoved : ∀ s, s.port c = q → Moved s (next s) c p calls refused) : MoveEffect c q p calls refused := by
  intro s t hport ht
  obtain rfl := Host.Outcome.next.inj ((hgo s hport).symm.trans ht)
  exact hmoved s hport

theorem moveEffect_of_hold {c : Nat} {q : Port} (hgo : ∀ s, s.port c = q → goChannel s c = .next s) :
    MoveEffect c q q.forgetCall [] false :=
  moveEffect_of_next id hgo fun s hport => hport ▸ moved_refl s c

/-- An IDLE channel's move: nothing waits, or the head is accepted or refused. -/
theorem moveEffect_idle (c : Nat) {q : Port} (hphase : q.chan.phase = .idle) :
    ∃ p calls refused, MoveEffect c q p calls refused := by
  have hgo : ∀ s, s.port c = q → goChannel s c = .next (takeUp s c) :=
    fun s hport => goChannel_idle s c (by rw [hport, hphase])
  cases hwait : q.waiting with
  | nil =>
    refine ⟨_, _, _, moveEffect_of_hold fun s hport => ?_⟩
    rw [hgo s hport]
    simp only [takeUp, hport, hwait]
  | cons d ds =>
    cases hdecode : decode d with
    | ok i =>
      refine ⟨_, _, _, moveEffect_of_next (fun s => s.setPort c { q with chan := Channel.accepted i, waiting := ds })
        (fun s hport => ?_) fun s _ => moved_setPort s c _⟩
      rw [hgo s hport]
      simp only [takeUp, hport, hwait, hdecode]
    | error r =>
      refine ⟨_, _, _, moveEffect_of_next (fun s => { s.setPort c { q with waiting := ds } with refusalMark := true })
        (fun s hport => ?_) fun s _ => moved_refused s c _⟩
      rw [hgo s hport]
      simp only [takeUp, hport, hwait, hdecode]

/-- The effect of a move that ends its transaction (T2, T3). -/
theorem moveEffect_respond (c : Nat) {q : Port} {i : Instr} {r : Response}
    (hgo : ∀ s : State, s.port c = q → goChannel s c = exec i { s with cur := c })
    (hexec : ∀ s, exec i s = .next (respond s r)) :
    MoveEffect c q { chan := Channel.reset, waiting := q.waiting, responses := q.responses ++ [r] } [] false :=
  moveEffect_of_next (fun s => respond { s with cur := c } r) (fun s hport => (hgo s hport).trans (hexec _))
    fun s hport => hport ▸ moved_respond s c r

/-- A BUSY channel's move: its latched request ends or is handed over, by its operands alone. -/
theorem moveEffect_busy (c : Nat) {q : Port} {i : Instr} (hphase : q.chan.phase = .busy) (hlatch : q.chan.latch = some i) :
    ∃ p calls refused, MoveEffect c q p calls refused := by
  have hgo : ∀ s : State, s.port c = q → goChannel s c = exec i { s with cur := c } :=
    fun s hport => goChannel_busy (by rw [hport, hphase]) (by rw [hport, hlatch])
  cases i with
  | build dst src proto p => exact ⟨_, _, _, moveEffect_respond c hgo (exec_build dst src proto p)⟩
  | send dst src proto p =>
    obtain hp | hp := Nat.lt_or_ge maxPayload p.length
    · exact ⟨_, _, _, moveEffect_respond c hgo (exec_send_oversize hp dst src proto)⟩
    · exact ⟨_, _, _, moveEffect_of_next (fun s => transmit { s with cur := c } (frameOf dst src proto p))
        (fun s hport => (hgo s hport).trans (exec_send_accepted hp dst src proto _))
        fun s hport => hport ▸ moved_transmit s c _⟩

/-- The effect of a channel's move is fixed by the channel's port. -/
theorem exists_moveEffect (c : Nat) (q : Port) : ∃ p calls refused, MoveEffect c q p calls refused := by
  cases hphase : q.chan.phase with
  | idle => exact moveEffect_idle c hphase
  | busy =>
    cases hlatch : q.chan.latch with
    | some i => exact moveEffect_busy c hphase hlatch
    | none =>
      refine ⟨q, [], false, fun s t hport ht => ?_⟩
      rw [goChannel_latchEmpty (by rw [hport, hphase]) (by rw [hport, hlatch])] at ht
      cases ht
  | waitTx k => exact ⟨_, _, _, moveEffect_of_hold fun s hport => goChannel_waitTx s c k (by rw [hport, hphase])⟩

/-- A scripted move has its channel's effect, and consumes its event. -/
theorem step_moved {c : Nat} {q p : Port} {calls : List TxCall} {refused : Bool} (heffect : MoveEffect c q p calls refused)
    {s t : State} {es : List Event} (he : s.inputs = .go c :: es) (hport : s.port c = q) (h : step s = .next t) :
    Moved s.popped t c p calls refused := by
  rw [step_of_movesOf (.inl ⟨es, he⟩)] at h
  exact heffect _ _ hport h

/-- Settles O40: the effect of the move is fixed by the channel's port, which the two states share. -/
theorem channelMoveIsPrivate : Obligations.ChannelMoveIsPrivate := by
  unfold Obligations.ChannelMoveIsPrivate
  intro s t s' t' c es fs hs ht hport hs' ht'
  obtain ⟨p, calls, refused, heffect⟩ := exists_moveEffect c (s.port c)
  have hmoved := step_moved heffect hs rfl hs'
  have hmoved' := step_moved heffect ht hport.symm ht'
  refine ⟨hmoved.port.trans hmoved'.port.symm, hmoved.other, calls.map TxCall.frame, ?_, ?_⟩
  · rw [hmoved.log, List.map_append, State.popped_txLog]
  · rw [hmoved'.log, List.map_append, State.popped_txLog]

/-- The scripted move of a channel that the invariant holds of completes, with its effect. -/
theorem exists_step_moved {log : List TxCall} {c : Nat} {q p : Port} {calls : List TxCall} {refused : Bool}
    (hok : ChannelOk log c q.chan) (heffect : MoveEffect c q p calls refused) {s : State} {es : List Event}
    (he : s.inputs = .go c :: es) (hport : s.port c = q) :
    ∃ t, step s = .next t ∧ Moved s.popped t c p calls refused := by
  obtain ⟨t, ht⟩ := goChannel_completes (s := s.popped) (c := c) (hport ▸ hok)
  have hstep := (step_of_movesOf (.inl ⟨es, he⟩)).trans ht
  exact ⟨t, hstep, step_moved heffect he hport hstep⟩

/-- The scripted moves of two channels, one after the other: both effects, the first channel's calls logged first. -/
theorem run_two_moves {s : State} (hs : s.Inv) {c c' : Nat} (hne : c ≠ c') (es : List Event) {p p' : Port}
    {calls calls' : List TxCall} {refused refused' : Bool} (heffect : MoveEffect c (s.port c) p calls refused)
    (heffect' : MoveEffect c' (s.port c') p' calls' refused') :
    ∃ t : State, Sys2Proof.core.run 2 { s with inputs := .go c :: .go c' :: es } = .next t ∧
      (t.port c).forgetCall = p ∧ (t.port c').forgetCall = p' ∧ (∀ d, d ≠ c → d ≠ c' → t.port d = s.port d) ∧
      t.txLog = s.txLog ++ calls ++ calls' ∧ t.refusalMark = (s.refusalMark || refused || refused') ∧ t.inputs = es := by
  obtain ⟨u, hu, hfirst⟩ := exists_step_moved (hs.channels c) heffect
    (s := { s with inputs := .go c :: .go c' :: es }) rfl rfl
  obtain ⟨t, ht, hsecond⟩ := exists_step_moved (hs.channels c') heffect' hfirst.inputs (hfirst.other c' hne.symm)
  refine ⟨t, (run_succ hu 1).trans (run_succ ht 0), ?_, hsecond.port, fun d hd hd' => ?_,
    hsecond.log.trans (congrArg (· ++ calls') hfirst.log), hsecond.mark.trans (congrArg (· || refused') hfirst.mark),
    hsecond.inputs.trans (congrArg List.tail hfirst.inputs)⟩
  · exact (congrArg Port.forgetCall (hsecond.other c hne)).trans hfirst.port
  · exact (hsecond.other d hd').trans (hfirst.other d hd)

/-- Settles O41: each order applies the same two effects. -/
theorem movesOfTwoChannelsCommute : Obligations.MovesOfTwoChannelsCommute := by
  unfold Obligations.MovesOfTwoChannelsCommute
  intro s c c' es hs hne
  obtain ⟨p, calls, refused, heffect⟩ := exists_moveEffect c (s.port c)
  obtain ⟨p', calls', refused', heffect'⟩ := exists_moveEffect c' (s.port c')
  obtain ⟨t, ht, htc, htc', htother, htlog, htmark, htinputs⟩ := run_two_moves hs hne es heffect heffect'
  obtain ⟨u, hu, huc', huc, huother, hulog, humark, huinputs⟩ := run_two_moves hs hne.symm es heffect' heffect
  refine ⟨t, u, ht, hu, fun d => ?_, ?_, ?_, htinputs, huinputs⟩
  · obtain rfl | hd := eq_or_ne d c
    · rw [htc, huc]
    obtain rfl | hd' := eq_or_ne d c'
    · rw [htc', huc']
    · rw [htother d hd hd', huother d hd' hd]
  · rw [htlog, hulog, List.append_assoc, List.append_assoc]
    exact List.perm_append_comm.append_left s.txLog
  · rw [htmark, humark, Bool.or_right_comm]

end Sys2Proof.Machine
end

/-! ## The decoder, the encoder and the response's bytes (30_encoding.md) -/

section
namespace Sys2Proof

/-! ### Slices and the bytes they hold -/

/-- Two slices that meet are one slice (R10). -/
theorem slice_append_slice (d : Bytes) {a b c : Nat} (hab : a ≤ b) (hbc : b ≤ c) :
    slice d a b ++ slice d b c = slice d a c := by
  obtain ⟨m, rfl⟩ := Nat.exists_eq_add_of_le hab
  obtain ⟨n, rfl⟩ := Nat.exists_eq_add_of_le hbc
  have hlast : a + m + n - a = m + n := by omega
  simp only [slice, Nat.add_sub_cancel_left, hlast, List.take_add, List.drop_drop]

/-- The bytes of a slice that lies within the sequence, one by one (R10). -/
theorem slice_eq_map_getD {d : Bytes} {off n : Nat} (h : off + n ≤ d.length) :
    slice d off (off + n) = (List.range n).map fun k => d.getD (off + k) 0 := by
  refine List.ext_getElem (by simp [slice]; omega) fun k hk hk' => ?_
  have hlt : off + k < d.length := by simp at hk'; omega
  simp [slice, hlt]

theorem dstOf_toBytes {d : Bytes} (h : fixedPart ≤ d.length) : (dstOf d).toBytes = slice d 1 7 :=
  (slice_eq_map_getD (off := 1) (n := 6) (by simp only [fixedPart] at h; omega)).symm

theorem srcOf_toBytes {d : Bytes} (h : fixedPart ≤ d.length) : (srcOf d).toBytes = slice d 7 13 :=
  (slice_eq_map_getD (off := 7) (n := 6) (by simp only [fixedPart] at h; omega)).symm

theorem protoOf_toBytes {d : Bytes} (h : fixedPart ≤ d.length) : (protoOf d).toBytes = slice d 13 15 :=
  (slice_eq_map_getD (off := 13) (n := 2) (by simp only [fixedPart] at h; omega)).symm

theorem fromBe16_le_maxPlen (hi lo : Byte) : fromBe16 hi lo ≤ maxPlen := by
  have := hi.isLt
  have := lo.isLt
  simp only [fromBe16, maxPlen]
  omega

/-- Any two bytes are the big-endian spelling of the number they read as (R43). -/
theorem be16_fromBe16 (hi lo : Byte) : be16 (BitVec.ofNat 16 (fromBe16 hi lo)) = [hi, lo] := by
  have := hi.isLt
  have := lo.isLt
  have hhi : (BitVec.ofNat 16 (fromBe16 hi lo)).extractLsb' 8 8 = hi := by
    apply BitVec.eq_of_toNat_eq
    simp [fromBe16, BitVec.extractLsb'_toNat, Nat.shiftRight_eq_div_pow]
    omega
  have hlo : (BitVec.ofNat 16 (fromBe16 hi lo)).extractLsb' 0 8 = lo := by
    apply BitVec.eq_of_toNat_eq
    simp [fromBe16, BitVec.extractLsb'_toNat]
    omega
  rw [be16, hhi, hlo]

/-- The two bytes of PLEN are the descriptor's own (R60, R63). -/
theorem be16_plenOf {d : Bytes} (h : fixedPart ≤ d.length) : be16 (BitVec.ofNat 16 (plenOf d)) = slice d 15 17 := by
  rw [plenOf, readBe16, be16_fromBe16]
  exact (slice_eq_map_getD (off := 15) (n := 2) h).symm

theorem length_payloadOf {d : Bytes} (h : d.length = fixedPart + plenOf d) : (payloadOf d).length = plenOf d := by
  simp only [fixedPart] at h
  simp [payloadOf, slice]
  omega

/-! ### Accepted descriptors -/

/-- An accepted byte string is put together again from its own fields, so it is the descriptor of the request it decodes to
(R60, R63). -/
theorem encode_of_decode {d : Bytes} {i : Instr} (h : decode d = .ok i) : i.wf = true ∧ encode i = d := by
  obtain ⟨c, rest, hcode, hfixed, hlength, rfl⟩ := (decode_ok_iff d i).1 h
  have hpayload := length_payloadOf hlength
  constructor
  · rw [Instr.wf, Instr.payload_ofCommand, hpayload]
    exact decide_eq_true (fromBe16_le_maxPlen _ _)
  · have hop : [c.code] = slice d 0 1 := by rw [hcode]; rfl
    calc encode (.ofCommand c (dstOf d) (srcOf d) (protoOf d) (payloadOf d))
        = [c.code] ++ ((dstOf d).toBytes ++ (srcOf d).toBytes ++ (protoOf d).toBytes ++
            be16 (BitVec.ofNat 16 (plenOf d)) ++ payloadOf d) := by simp [encode, hpayload]
      _ = slice d 0 1 ++ (slice d 1 7 ++ slice d 7 13 ++ slice d 13 15 ++ slice d 15 17 ++ slice d 17 (17 + plenOf d)) := by
          rw [hop, dstOf_toBytes hfixed, srcOf_toBytes hfixed, protoOf_toBytes hfixed, be16_plenOf hfixed, payloadOf]
      _ = slice d 0 (17 + plenOf d) := by
          simp (disch := omega) only [slice_append_slice]
      _ = d := List.take_of_length_le hlength.le

/-- The decoder accepts exactly the descriptors of well-formed requests, each as its own request. -/
theorem decode_ok_iff_encode {d : Bytes} {i : Instr} : decode d = .ok i ↔ i.wf = true ∧ encode i = d := by
  refine ⟨encode_of_decode, ?_⟩
  rintro ⟨hwf, rfl⟩
  exact decode_encode hwf

/-- Settles O1. -/
theorem decodeInvertsEncode : Obligations.DecodeInvertsEncode := by
  unfold Obligations.DecodeInvertsEncode
  exact fun i hwf => decode_ok_iff_encode.2 ⟨hwf, rfl⟩

/-- Settles O2. -/
theorem acceptedBytesAreTheEncoding : Obligations.AcceptedBytesAreTheEncoding := by
  unfold Obligations.AcceptedBytesAreTheEncoding
  exact fun d i => decode_ok_iff_encode.1

/-- Settles O4: an accepted descriptor is its request's encoding, whose fields are the operands' bytes. -/
theorem operandsAreDescriptorSlices : Obligations.OperandsAreDescriptorSlices := by
  unfold Obligations.OperandsAreDescriptorSlices
  intro d i hdecode
  obtain ⟨hwf, rfl⟩ := encode_of_decode hdecode
  have hplen : readBe16 (encode i) 15 = i.payload.length := plenOf_encode hwf
  refine ⟨rfl, rfl, rfl, rfl, (payloadOf_encode hwf).symm, hplen.symm, ?_, length_encode i⟩
  rw [hplen]
  exact of_decide_eq_true hwf

/-! ### Refused descriptors (R65) -/

theorem decode_reserved {op : Byte} (h : Command.ofCode op = none) (rest : Bytes) :
    decode (op :: rest) = .error (.reservedOpcode op) := by simp only [decode, h]

theorem decode_short {c : Command} {rest : Bytes} (h : (c.code :: rest).length < fixedPart) :
    decode (c.code :: rest) = .error .shortDescriptor := by simp only [decode, Command.ofCode_code, if_pos h]

theorem decode_mismatch {c : Command} {rest : Bytes} (hfixed : fixedPart ≤ (c.code :: rest).length)
    (h : (c.code :: rest).length ≠ fixedPart + plenOf (c.code :: rest)) :
    decode (c.code :: rest) = .error .lengthMismatch := by
  simp only [decode, Command.ofCode_code, if_neg (Nat.not_lt.2 hfixed), if_pos h]

/-- The two codes that are not reserved (R62). -/
theorem exists_code_of_or {op : Byte} (h : op = 0x01#8 ∨ op = 0x02#8) : ∃ c : Command, op = c.code := by
  obtain rfl | rfl := h
  · exact ⟨.build, rfl⟩
  · exact ⟨.send, rfl⟩

/-- R65's last row: a descriptor of the length that its PLEN asks for is accepted. -/
theorem decode_accepts {d : Bytes} {c : Command} (hcode : d.head? = some c.code) (hfixed : fixedPart ≤ d.length)
    (hlength : d.length = fixedPart + plenOf d) :
    decode d = .ok (Instr.ofCommand c (dstOf d) (srcOf d) (protoOf d) (payloadOf d)) := by
  obtain ⟨rest, hd⟩ := List.head?_eq_some_iff.1 hcode
  exact (decode_ok_iff _ _).2 ⟨c, rest, hd, hfixed, hlength, rfl⟩

end Sys2Proof

namespace Sys2Proof.Machine

/-- `s` after channel `c` has refused its oldest descriptor (R65), with `ds` still waiting there. -/
def State.refusedAt (s : State) (c : Nat) (ds : List Bytes) : State :=
  { s.popped.setPort c { s.port c with waiting := ds } with refusalMark := true }

@[simp] theorem State.refusedAt_port_same (s : State) (c : Nat) (ds : List Bytes) :
    (s.refusedAt c ds).port c = { s.port c with waiting := ds } := State.port_setPort_same s.popped _ _
@[simp] theorem State.refusedAt_port_other (s : State) (c c' : Nat) (ds : List Bytes) (h : c' ≠ c) :
    (s.refusedAt c ds).port c' = s.port c' := State.port_setPort_other s.popped _ _ _ h

/-- The move of an IDLE channel whose oldest descriptor the decoder refuses: R65's outcome. -/
theorem step_refuses {s : State} {c : Nat} {d : Bytes} {ds : List Bytes} {r : DecodeRefusal} (hm : s.movesOf c)
    (hphase : (s.port c).chan.phase = .idle) (hwait : (s.port c).waiting = d :: ds) (hdecode : decode d = .error r) :
    step s = .next (s.refusedAt c ds) := by
  rw [step_of_movesOf hm, goChannel_idle s.popped c hphase]
  simp only [takeUp, State.popped_port, hwait, hdecode, State.refusedAt]

/-- Settles O3, row by row of R65's table. -/
theorem decoderFollowsRefusalTable : Obligations.DecoderFollowsRefusalTable := by
  unfold Obligations.DecoderFollowsRefusalTable
  refine ⟨rfl, fun op rest hbuild hsend => ?_, fun op rest hop hshort => ?_, fun op rest hop hlong hmismatch => ?_,
    fun d hfixed hlength => ?_, fun s c es d ds r he hphase hwait hdecode => ?_⟩
  · exact decode_reserved ((Command.ofCode_eq_none op).2 ⟨hbuild, hsend⟩) rest
  · obtain ⟨c, rfl⟩ := exists_code_of_or hop
    exact decode_short hshort
  · obtain ⟨c, rfl⟩ := exists_code_of_or hop
    exact decode_mismatch hlong hmismatch
  · exact ⟨fun hop => decode_accepts (c := .build) hop hfixed hlength,
      fun hop => decode_accepts (c := .send) hop hfixed hlength⟩
  · refine ⟨_, step_refuses (.inl ⟨es, he⟩) hphase hwait hdecode, ?_, ?_, ?_, rfl, rfl, congrArg List.tail he,
      fun c' hc => State.refusedAt_port_other s c c' ds hc⟩ <;> rw [State.refusedAt_port_same]

/-! ### Responses (R64) -/

theorem length_of_isFrame {f : Bytes} (h : IsFrame f) : minFrame ≤ f.length ∧ f.length ≤ maxFrame := by
  obtain ⟨dst, src, proto, p, hp, rfl⟩ := h
  rw [length_frameOf]
  simp only [maxPayload, minFrame, maxFrame] at *
  omega

theorem status_cases (r : Response) : r.status = 0x00#8 ∨ r.status = 0x01#8 ∨ r.status = 0x02#8 := by
  match r with
  | .frame _ | .ack => exact .inl rfl
  | .error .oversizePayload => exact .inr (.inl rfl)
  | .error (.transmitFailure _) => exact .inr (.inr rfl)

/-- Settles O7: a frame's length fits 16 bits, so its two bytes read back as it. -/
theorem responseBytes : Obligations.ResponseBytes := by
  unfold Obligations.ResponseBytes
  refine ⟨fun f hf => ?_, rfl, rfl, fun e => rfl, fun r => ⟨r.status, r.rest, rfl, status_cases r⟩⟩
  obtain ⟨hmin, hmax⟩ := length_of_isFrame hf
  exact ⟨hmin, hmax, _, _, rfl, fromBe16_be16 _ (hmax.trans (by decide))⟩

/-! ### Descriptors written out -/

/-- The BUILD of R67's example. -/
def exampleBuild : Instr :=
  .build ⟨0x14, 0xb3, 0x1f, 0x23, 0x8c, 0xc6⟩ ⟨0x00, 0x11, 0x22, 0x33, 0x44, 0x55⟩ ⟨0x88, 0xb5⟩ [0x63, 0x61, 0x74]

/-- The line of R67 assembles to the descriptor of its BUILD. -/
theorem assembleLine_example :
    assembleLine "BUILD dst=14:b3:1f:23:8c:c6, src=00:11:22:33:44:55, proto=88:b5, payload=\"cat\"" =
      some (encode exampleBuild) := by
  decide +kernel

/-- Settles O5: the 20 bytes are the descriptor of the example's BUILD. -/
theorem exampleLineAssembles : Obligations.ExampleLineAssembles := by
  unfold Obligations.ExampleLineAssembles
  exact ⟨assembleLine_example, decode_ok_iff_encode.2 ⟨rfl, rfl⟩⟩

/-- Settles O6: each of the words is the descriptor of the command it stands for. -/
theorem writtenWordsDecode : Obligations.WrittenWordsDecode := by
  unfold Obligations.WrittenWordsDecode
  exact ⟨decode_ok_iff_encode.2 ⟨rfl, rfl⟩, decode_ok_iff_encode.2 ⟨rfl, rfl⟩, decode_ok_iff_encode.2 ⟨rfl, rfl⟩⟩

end Sys2Proof.Machine
end

/-! ## The assembler's steps and what BUILD answers (40_frame_assembly.md) -/

section
namespace Sys2Proof.Machine

/-! ### One step over FBUF at a time (R82 to R84) -/

/-- Body bytes written at FBUF's end join it, whatever the accumulator holds (R45). -/
theorem exists_appendBody {ch : Channel} {off n : Nat} {v : Bytes} (hoff : off = ch.fbuf.length) (hn : v.length = n) :
    ∃ ch', appendBody ch off n v = .ok ch' ∧ ch'.fbuf = ch.fbuf ++ v := by
  have hwrite := (memWrite_ok_iff ch _ .fbuf off n v).2 ⟨rfl, hoff, hn, rfl⟩
  exact ⟨_, by rw [appendBody, hwrite], rfl⟩

theorem exists_appendPayload {x : Instr} {ch : Channel} (h : ch.fbuf.length = hdrLen) :
    ∃ ch', appendPayload x ch = .ok ch' ∧ ch'.fbuf = ch.fbuf ++ x.payload := by
  rw [appendPayload, show memRead x ch .pay 0 x.payload.length = .ok x.payload from memRead_all x ch .pay]
  exact exists_appendBody h.symm rfl

/-- The padding's length is written once for both of R84's cases: for a payload of 46 bytes and more it is 0. -/
theorem exists_appendPadding {x : Instr} {ch : Channel} (h : ch.fbuf.length = hdrLen + x.payload.length) :
    ∃ ch', appendPadding x ch = .ok ch' ∧ ch'.fbuf = ch.fbuf ++ zeros (minData - x.payload.length) := by
  obtain hshort | hlong := Nat.lt_or_ge x.payload.length minData
  · rw [appendPadding, if_pos hshort]
    exact exists_appendBody h.symm (length_zeros _)
  · rw [appendPadding, if_neg (Nat.not_lt.2 hlong), Nat.sub_eq_zero_of_le hlong]
    exact ⟨ch, rfl, (List.append_nil _).symm⟩

/-- Settles O15: each step appends at FBUF's end, where its offset and FBUF's length agree. -/
theorem payloadAndPaddingSteps : Obligations.PayloadAndPaddingSteps := by
  unfold Obligations.PayloadAndPaddingSteps
  refine fun x ch => ⟨fun h => ?_, fun h => ?_⟩
  · obtain ⟨ch', hstep, hfbuf⟩ := exists_appendPayload (x := x) h
    refine ⟨ch', hstep, hfbuf, by rw [hfbuf, List.length_append, h], ?_⟩
    rw [hfbuf, ← List.append_nil (_ ++ _)]
    exact slice_append_middle [] h rfl
  · obtain ⟨ch', hstep, hfbuf⟩ := exists_appendPadding h
    refine ⟨ch', hstep, fun _ => hfbuf, fun hlong => ?_, ?_⟩
    · rw [hfbuf, minData, Nat.sub_eq_zero_of_le hlong]
      exact List.append_nil _
    · rw [hfbuf, List.length_append, h, length_zeros, minData]
      omega

/-- Settles O14: FBUF then holds the three operands, one after the other. -/
theorem headerStep : Obligations.HeaderStep := by
  unfold Obligations.HeaderStep
  intro x ch h
  refine ⟨_, appendHeader_ok x ch h, ?_⟩
  rw [Channel.extended, h]
  exact ⟨rfl, rfl, rfl, rfl⟩

/-! ### Trailing zeros and padding (R88) -/

theorem zeros_append_zeros (m n : Nat) : zeros m ++ zeros n = zeros (m + n) := List.replicate_append_replicate

theorem bodyOf_append_zeros (dst src : HardwareAddress) (proto : ProtocolId) {p : Bytes} {k : Nat}
    (h : p.length + k ≤ minData) : bodyOf dst src proto (p ++ zeros k) = bodyOf dst src proto p := by
  have hlength : (p ++ zeros k).length = p.length + k := by rw [List.length_append, length_zeros]
  have hpad : k + (max (p.length + k) minData - (p.length + k)) = max p.length minData - p.length := by omega
  simp only [bodyOf, hlength, List.append_assoc, zeros_append_zeros, hpad]

/-- Settles O16: the two payloads have one body, and the frame is made of the body. -/
theorem trailingZerosLookLikePadding : Obligations.TrailingZerosLookLikePadding := by
  unfold Obligations.TrailingZerosLookLikePadding
  intro dst src proto p k s t h
  have hframe : frameOf dst src proto (p ++ zeros k) = frameOf dst src proto p := by
    rw [frameOf, bodyOf_append_zeros dst src proto h, frameOf]
  have hp : p.length ≤ maxPayload := by rw [maxPayload]; omega
  have hpk : (p ++ zeros k).length ≤ maxPayload := by rw [List.length_append, length_zeros, maxPayload]; omega
  exact ⟨_, returnsFrame_build_iff.2 ⟨hp, rfl⟩, returnsFrame_build_iff.2 ⟨hpk, hframe.symm⟩⟩

/-! ### The whole of a command that ends at once (R80, R81) -/

/-- A response written out as the one port it replaces (R25). -/
theorem respond_eq_setPort (s : State) (r : Response) : respond s r = s.setPort s.cur
    { chan := { phase := .idle, latch := none, fbuf := [], crcAcc := none }, waiting := (s.port s.cur).waiting,
      responses := (s.port s.cur).responses ++ [r] } := rfl

theorem buildResponse_eq_ite (dst src : HardwareAddress) (proto : ProtocolId) (p : Bytes) :
    buildResponse dst src proto p =
      if maxPayload < p.length then .error .oversizePayload else .frame (frameOf dst src proto p) := by
  split
  case isTrue h => exact buildResponse_oversize h dst src proto
  case isFalse h => exact buildResponse_accepted (Nat.not_lt.1 h) dst src proto

/-- R80's example: the "cat" frame after its header. -/
theorem drop_frameOf_cat :
    (frameOf ⟨0x14, 0xb3, 0x1f, 0x23, 0x8c, 0xc6⟩ ⟨0x00, 0x11, 0x22, 0x33, 0x44, 0x55⟩ ⟨0x88, 0xb5⟩
        [0x63, 0x61, 0x74]).drop 14 =
      [0x63, 0x61, 0x74] ++ List.replicate 43 0x00#8 ++ [0x00, 0xe3, 0x00, 0x1c] := by
  decide +kernel

/-- Settles O8: BUILD is one response, `build`'s result. -/
theorem buildAnswersPureBuild : Obligations.BuildAnswersPureBuild := by
  unfold Obligations.BuildAnswersPureBuild
  refine ⟨fun dst src proto p s => ?_, drop_frameOf_cat⟩
  rw [exec_build, buildResponse_eq_ite, respond_eq_setPort, maxPayload]

/-- R81: the size check is the same for both commands. -/
theorem exec_oversize {i : Instr} (h : maxPayload < i.payload.length) (s : State) :
    exec i s = .next (respond s (.error .oversizePayload)) := by
  cases i with
  | build dst src proto p => rw [exec_build, buildResponse_oversize (p := p) h]
  | send dst src proto p => exact exec_send_oversize h dst src proto s

/-- Settles O9: over the limit both commands are the error's response; up to it BUILD returns R80's frame. -/
theorem oversizeRequestAnswersError : Obligations.OversizeRequestAnswersError := by
  unfold Obligations.OversizeRequestAnswersError
  refine ⟨fun i s h => ?_, rfl, fun dst src proto p s h => ⟨_, returnsFrame_build_iff.2 ⟨h, rfl⟩⟩⟩
  rw [exec_oversize h, respond_eq_setPort]

end Sys2Proof.Machine
end

/-! ## CRC-32: its table form, its accumulator, and the checksum of a frame (41_crc32_framer.md) -/

section
namespace Sys2Proof

/-! ### The register is linear over XOR, and takes in a word byte by byte (R101, R108) -/

/-- A step of the register shifts, and XORs the polynomial in or nothing. -/
theorem crcBit_eq_xor (r : Word) : crcBit r = r >>> 1 ^^^ if r.getLsbD 0 then crcPoly else 0#32 := by
  rw [crcBit]
  split
  · rfl
  · exact BitVec.xor_zero.symm

theorem crcBit_xor (a b : Word) : crcBit (a ^^^ b) = crcBit a ^^^ crcBit b := by
  have hpoly : (if (a ^^^ b).getLsbD 0 then crcPoly else 0#32) =
      (if a.getLsbD 0 then crcPoly else 0#32) ^^^ if b.getLsbD 0 then crcPoly else 0#32 := by
    rw [BitVec.getLsbD_xor]
    cases a.getLsbD 0 <;> cases b.getLsbD 0 <;> simp
  rw [crcBit_eq_xor, crcBit_eq_xor a, crcBit_eq_xor b, hpoly, BitVec.ushiftRight_xor_distrib]
  ac_rfl

theorem crcBits_xor (n : Nat) (a b : Word) : crcBits n (a ^^^ b) = crcBits n a ^^^ crcBits n b := by
  induction n generalizing a b with
  | zero => rfl
  | succ n ih => rw [crcBits, crcBit_xor, ih, crcBits, crcBits]

theorem crcBits_add (m n : Nat) (r : Word) : crcBits (m + n) r = crcBits n (crcBits m r) := by
  induction m generalizing r with
  | zero => rw [Nat.zero_add, crcBits]
  | succ m ih => rw [Nat.add_right_comm, crcBits, ih, crcBits]

/-- Zero bits leave the register without the polynomial's XOR. -/
theorem crcBits_of_low_bits_zero {n : Nat} {r : Word} (h : ∀ i < n, r.getLsbD i = false) : crcBits n r = r >>> n := by
  induction n generalizing r with
  | zero => rfl
  | succ n ih =>
    have hbit : crcBit r = r >>> 1 := by rw [crcBit, h 0 (Nat.zero_lt_succ n), if_neg Bool.false_ne_true]
    have hrest : ∀ i < n, (r >>> 1).getLsbD i = false := fun i hi => by
      rw [BitVec.getLsbD_ushiftRight]
      exact h (1 + i) (by omega)
    rw [crcBits, hbit, ih hrest, ← BitVec.shiftRight_add, Nat.add_comm]

/-- A word without its low byte moves through the register unchanged. -/
theorem crcBits_high_bytes (w : Word) : crcBits 8 (w >>> 8 <<< 8) = w >>> 8 := by
  rw [crcBits_of_low_bits_zero fun i hi => by simp [hi]]
  ext i hi
  obtain h | h := Nat.lt_or_ge (8 + i) 32
  · simp [h]
  · simp [Nat.not_lt.2 h, BitVec.getLsbD_of_ge w (8 + i) h]

theorem low_byte_xor_high_bytes (w : Word) : (w.setWidth 8).setWidth 32 ^^^ w >>> 8 <<< 8 = w := by
  ext i hi
  obtain h | h := Nat.lt_or_ge i 8
  · simp [h, hi]
  · simp [Nat.not_lt.2 h, Nat.add_sub_of_le h, hi]

/-- A word XORed into the register enters it through its low byte; its other bytes only move down. -/
theorem crcBits_xor_word (n : Nat) (r w : Word) :
    crcBits (8 + n) (r ^^^ w) = crcBits n (crcByte r (w.setWidth 8) ^^^ w >>> 8) := by
  have hsplit : r ^^^ w = r ^^^ (w.setWidth 8).setWidth 32 ^^^ w >>> 8 <<< 8 := by
    rw [BitVec.xor_assoc, low_byte_xor_high_bytes]
  rw [crcBits_add, hsplit, crcBits_xor, crcBits_high_bytes, crcByte]

/-! ### The table form and the numbers (R101, R102) -/

/-- A byte's eight steps on `r` are the table's entry for the low byte, XORed into the bytes above it. -/
theorem crcTableByte_eq_crcByte (r : Word) (b : Byte) : crcTableByte r b = crcByte r b := by
  have hhigh : (r ^^^ b.setWidth 32) >>> 8 = r >>> 8 := by
    have hb : b.setWidth 32 >>> 8 = 0#32 := by
      rw [← BitVec.setWidth_ushiftRight (by decide), BitVec.ushiftRight_eq_zero (Nat.le_refl 8), BitVec.setWidth_zero]
    rw [BitVec.ushiftRight_xor_distrib, hb, BitVec.xor_zero]
  have htable : ∀ v : Byte, crcByte 0#32 v = crcTable v := fun v => by rw [crcByte, BitVec.zero_xor, crcTable]
  have hword := crcBits_xor_word 0 0#32 (r ^^^ b.setWidth 32)
  rw [BitVec.zero_xor, htable, hhigh, crcBits, BitVec.xor_comm _ (r >>> 8)] at hword
  exact hword.symm

/-- The whole table form is R101's function. -/
theorem crc32ByTable_eq_crc32 (s : Bytes) : crc32ByTable s = crc32 s := by
  have hbyte : crcTableByte = crcByte := funext fun r => funext fun b => crcTableByte_eq_crcByte r b
  rw [crc32ByTable, hbyte, crc32, crcBytes]

/-- Settles O20: the two forms agree on every byte; the entries are R102's. -/
theorem tableFormEqualsBitForm : Obligations.TableFormEqualsBitForm := by
  unfold Obligations.TableFormEqualsBitForm
  exact ⟨crc32ByTable_eq_crc32, by decide, by decide, by decide, by decide, by decide⟩

/-- Settles O19: R101's loop, run on the two sequences. -/
theorem crcCheckValues : Obligations.CrcCheckValues := by
  unfold Obligations.CrcCheckValues
  exact ⟨by decide +kernel, rfl⟩

/-! ### A sequence that carries its checksum (R105 to R107) -/

/-- The four bytes of a word, in little-endian order, run through the register as the word's 32 bits. -/
theorem crcBytes_le32 (r c : Word) : crcBytes r (le32 c) = crcBits 32 (r ^^^ c) := by
  have hzero : c >>> 32 = 0#32 := BitVec.ushiftRight_eq_zero (Nat.le_refl 32)
  rw [crcBits_xor_word 24, crcBits_xor_word 16, crcBits_xor_word 8, crcBits_xor_word 0, crcBits]
  simp only [← BitVec.shiftRight_add, BitVec.setWidth_ushiftRight_eq_extractLsb]
  rw [hzero, BitVec.xor_zero, BitVec.setWidth_eq_extractLsb' (by decide)]
  rfl

/-- A checksum cancels the register it was made from, so what is left does not depend on the sequence (R107). -/
theorem crc32_append_le32_crc32 (s : Bytes) : crc32 (s ++ le32 (crc32 s)) = crcResidue := by
  have hones : crcBytes crcInit s ^^^ crc32 s = crcXorOut := by
    rw [crc32, ← BitVec.xor_assoc, BitVec.xor_self, BitVec.zero_xor]
  have hresidue : crcBits 32 crcXorOut ^^^ crcXorOut = crcResidue := by decide +kernel
  rw [crc32, crcBytes_append, crcBytes_le32, hones, hresidue]

/-- A byte of a word and 256 times the bytes above it: the word from that byte up. -/
theorem byte_add_bytes_above (c : Word) (k : Nat) :
    (c.extractLsb' k 8).setWidth 32 + c >>> (k + 8) * 0x100#32 = c >>> k := by
  rw [BitVec.shiftRight_add, ← BitVec.setWidth_ushiftRight_eq_extractLsb]
  have hlt := (c >>> k).isLt
  apply BitVec.eq_of_toNat_eq
  rw [BitVec.toNat_add, BitVec.toNat_mul, BitVec.toNat_setWidth, BitVec.toNat_setWidth,
    BitVec.toNat_ushiftRight (c >>> k), Nat.shiftRight_eq_div_pow, BitVec.toNat_ofNat]
  omega

/-- R106's sum of a word's four bytes is the word, by Horner's rule from the top byte down. -/
theorem sum_le32_bytes (c : Word) :
    (c.extractLsb' 0 8).setWidth 32 + (c.extractLsb' 8 8).setWidth 32 * 0x100#32 +
      (c.extractLsb' 16 8).setWidth 32 * 0x10000#32 + (c.extractLsb' 24 8).setWidth 32 * 0x1000000#32 = c := by
  have htop : (c.extractLsb' 24 8).setWidth 32 = c >>> 24 := by
    rw [← byte_add_bytes_above c 24, BitVec.ushiftRight_eq_zero (Nat.le_refl 32), BitVec.zero_mul, BitVec.add_zero]
  calc
    _ = (c.extractLsb' 0 8).setWidth 32 + ((c.extractLsb' 8 8).setWidth 32 +
          ((c.extractLsb' 16 8).setWidth 32 + (c.extractLsb' 24 8).setWidth 32 * 0x100#32) * 0x100#32) * 0x100#32 := by
      simp only [BitVec.add_mul, BitVec.mul_assoc, BitVec.reduceMul, BitVec.add_assoc]
    _ = c := by
      rw [htop, byte_add_bytes_above c 16, byte_add_bytes_above c 8, byte_add_bytes_above c 0, BitVec.ushiftRight_zero]

end Sys2Proof

namespace Sys2Proof.Machine

/-- Only BUILD returns a frame, and it is R80's. -/
theorem isFrame_of_returnsFrame {i : Instr} {s : State} {f : Bytes} (h : ReturnsFrame i s f) : IsFrame f := by
  cases i with
  | build dst src proto p =>
    obtain ⟨hp, rfl⟩ := returnsFrame_build_iff.1 h
    exact isFrame_frameOf hp dst src proto
  | send dst src proto p =>
    obtain ⟨t, ht, hresponses⟩ := h
    obtain ⟨t', ht', hresponses', -⟩ := exec_outcome (.send dst src proto p) s
    obtain rfl := Host.Outcome.next.inj (ht.symm.trans ht')
    have hframe : [.frame f] = (Instr.outcome (.send dst src proto p)).1 :=
      List.append_cancel_left (hresponses.symm.trans hresponses')
    rw [Instr.outcome] at hframe
    split at hframe <;> cases hframe

/-- Settles O22: the bytes after the body are `le32` of its CRC. -/
theorem checksumRoundTrip : Obligations.ChecksumRoundTrip := by
  unfold Obligations.ChecksumRoundTrip
  intro i s f h
  obtain ⟨dst, src, proto, p, -, rfl⟩ := isFrame_of_returnsFrame h
  rw [take_frameOf_length_sub_four]
  exact ⟨_, _, _, _, rfl, (sum_le32_bytes _).symm⟩

/-- Settles O23: a frame is its body and the body's checksum. -/
theorem frameResidue : Obligations.FrameResidue := by
  unfold Obligations.FrameResidue
  intro i s f h
  obtain ⟨dst, src, proto, p, -, rfl⟩ := isFrame_of_returnsFrame h
  exact crc32_append_le32_crc32 (bodyOf dst src proto p)

/-! ### The accumulator (R103) -/

/-- The accumulator, inverted, is a sequence's CRC exactly when it holds the register over the sequence. -/
theorem xor_ones_eq_crc32_iff {A : Word} {s : Bytes} : A ^^^ 0xFFFFFFFF#32 = crc32 s ↔ A = crcBytes crcInit s :=
  BitVec.xor_left_inj crcXorOut

theorem exists_acc_extended (ch : Channel) (v : Bytes) :
    ∃ A, (ch.extended v).crcAcc = some A ∧ A ^^^ 0xFFFFFFFF#32 = crc32 (ch.extended v).fbuf :=
  ⟨_, rfl, xor_ones_eq_crc32_iff.2 rfl⟩

theorem followed_of_acc {ch : Channel}
    (h : ch.fbuf = [] ∨ ∃ A, ch.crcAcc = some A ∧ A ^^^ 0xFFFFFFFF#32 = crc32 ch.fbuf) : Followed ch := by
  intro hne
  obtain hempty | ⟨A, hacc, hcrc⟩ := h
  · exact absurd hempty hne
  · rw [hacc, xor_ones_eq_crc32_iff.1 hcrc]

/-- An append of body bytes that completes was at FBUF's end (R45), and takes the accumulator along. -/
theorem eq_extended_of_appendBody {ch ch' : Channel} {off n : Nat} {v : Bytes} (h : appendBody ch off n v = .ok ch')
    (hf : Followed ch) : ch' = ch.extended v := by
  cases hwrite : memWrite ch .fbuf off n v with
  | error e =>
    rw [appendBody, hwrite] at h
    cases h
  | ok w =>
    obtain ⟨-, hoff, hn, -⟩ := (memWrite_ok_iff ch w .fbuf off n v).1 hwrite
    rw [appendBody_ok ch off n v hoff hn hf] at h
    exact (Except.ok.inj h).symm

/-- No command leaves its channel an accumulator (T2, T3, T4). -/
theorem exec_crcAcc {i : Instr} {s t : State} (h : exec i s = .next t) : (t.port s.cur).chan.crcAcc = none := by
  obtain ⟨_, _, _, _, -, rfl⟩ | ⟨_, _, _, _, -, -, rfl⟩ | ⟨_, _, _, _, -, -, rfl⟩ := exec_cases h
  · rw [respond_port_cur]
    rfl
  · rw [respond_port_cur]
    rfl
  · rw [transmit_port_cur]

/-- Settles O21: the assembler and each of its appends leave an extended channel. -/
theorem accumulatorFollowsBody : Obligations.AccumulatorFollowsBody := by
  unfold Obligations.AccumulatorFollowsBody
  refine ⟨fun x ch => ?_, fun ch ch' off n v happend hacc => ?_, fun i s t h => exec_crcAcc h⟩
  · obtain ⟨A, hacc, hcrc⟩ := exists_acc_extended (startFrame ch) (bodyOf x.dst x.src x.proto x.payload)
    exact ⟨_, A, assembleBody_ok x ch, hacc, hcrc⟩
  · rw [eq_extended_of_appendBody happend (followed_of_acc hacc)]
    exact exists_acc_extended ch v

end Sys2Proof.Machine
end

/-! ## SEND: the hand-off, the wait and the answer (42_transmit.md) -/

section
namespace Sys2Proof.Machine

/-! ### The hand-off (R120, R122) -/

/-- A hand-off written out as the one port it replaces and the call that joins the log (R25, T4). -/
theorem transmit_eq_setPort (s : State) (f : Bytes) : transmit s f =
    { s.setPort s.cur
        { chan := { phase := .waitTx s.txLog.length, latch := (s.port s.cur).chan.latch, fbuf := [], crcAcc := none },
          waiting := (s.port s.cur).waiting, responses := (s.port s.cur).responses } with
      txLog := s.txLog ++ [{ channel := s.cur, frame := f, answer := none }] } := rfl

/-- Settles O10: an accepted SEND is one hand-off of R80's frame. -/
theorem sendHandsFrameOver : Obligations.SendHandsFrameOver := by
  unfold Obligations.SendHandsFrameOver
  intro dst src proto p s hp
  rw [exec_send_accepted hp, transmit_eq_setPort]

/-- A BUSY channel's run of its request keeps the log, or is the hand-off of an accepted SEND, which the channel then waits for. -/
theorem run_log_cases {s t : State} {c : Nat} {i : Instr} (h : exec i { s with cur := c } = .next t) :
    t.txLog = s.txLog ∨
    ∃ dst src proto p, i = .send dst src proto p ∧ p.length ≤ maxPayload ∧
      t.txLog = s.txLog ++ [{ channel := c, frame := frameOf dst src proto p, answer := none }] ∧
      (t.port c).chan.phase = .waitTx s.txLog.length := by
  obtain ⟨_, _, _, _, -, rfl⟩ | ⟨_, _, _, _, -, -, rfl⟩ | ⟨dst, src, proto, p, rfl, hp, rfl⟩ := exec_cases h
  · exact .inl rfl
  · exact .inl rfl
  · exact .inr ⟨dst, src, proto, p, rfl, hp, rfl, by rw [transmit_mk_port]⟩

/-- Settles O31: of a step's cases only `run` adds to the log, and an answer replaces an entry. -/
theorem oneCallPerSend : Obligations.OneCallPerSend := by
  unfold Obligations.OneCallPerSend
  refine ⟨fun dst src proto p s => ?_, fun s t h => ?_⟩
  · obtain hp | hp := Nat.lt_or_ge maxPayload p.length
    · exact ⟨_, exec_send_oversize hp dst src proto s, fun _ => rfl, fun hp' => absurd hp (Nat.not_lt.2 hp')⟩
    · exact ⟨_, exec_send_accepted hp dst src proto s, fun hp' => absurd hp' (Nat.not_lt.2 hp), fun _ => rfl⟩
  · cases step_cases h with
    | hold _ _ ht => exact .inl (ht ▸ rfl)
    | present c d es he ht => exact .inl (ht ▸ rfl)
    | accept c d ds i hm hphase hwait hdecode ht => exact .inl (ht ▸ rfl)
    | refuse c d ds hm hphase hwait ht => exact .inl (ht ▸ rfl)
    | run c i hm hphase hlatch ht =>
      obtain hlog | ⟨dst, src, proto, p, rfl, hp, hlog, hwaits⟩ := run_log_cases ht
      · exact .inl (congrArg List.length hlog)
      · exact .inr ⟨c, dst, src, proto, p, hphase, hlatch, hp, hlog, hwaits⟩
    | answered k a call es he hcall hphase ht => exact .inl (by rw [ht, respond_txLog, List.length_set])
    | reset es he ht => exact .inl (ht ▸ rfl)

/-! ### The wait (R126) -/

/-- Only the take-up by an IDLE channel shortens its list of waiting requests. -/
theorem WaitingMove.waiting_prefix_of_not_idle {s t : State} {c : Nat} (h : WaitingMove s t c)
    (hphase : (s.port c).chan.phase ≠ .idle) : (s.port c).waiting <+: (t.port c).waiting := by
  by_cases hpresent : ∃ d es, s.inputs = .present c d :: es
  · obtain ⟨d, es, he⟩ := hpresent
    rw [h.presented d es he]
    exact List.prefix_append _ _
  · rw [h.kept (fun d es he => hpresent ⟨d, es, he⟩) fun hidle => hphase hidle.1]

/-- Settles O30: from WAIT_TX R25's table has only T5 and T6, the answer to the channel's own call, and T7, reset. -/
theorem waitEndsOnlyByAnswerOrReset : Obligations.WaitEndsOnlyByAnswerOrReset := by
  unfold Obligations.WaitEndsOnlyByAnswerOrReset
  intro s t c k h hphase
  cases channelMove_of_stepCase (step_cases h) c with
  | hold hchan hresponses =>
    have hwait := waitingMove_of_stepCase (step_cases h) c
    exact .inl ⟨hchan, hresponses, hwait.waiting_prefix_of_not_idle (by simp [hphase])⟩
  | t1 _ _ _ hidle => simp [hphase] at hidle
  | t2 _ _ _ _ hbusy => simp [hphase] at hbusy
  | t3 _ _ _ _ hbusy => simp [hphase] at hbusy
  | t4 _ _ _ _ hbusy => simp [hphase] at hbusy
  | t5 k' _ es he hphase' =>
    cases hphase.symm.trans hphase'
    exact .inr (.inl ⟨_, es, he⟩)
  | t6 k' _ e es he hphase' =>
    cases hphase.symm.trans hphase'
    exact .inr (.inl ⟨_, es, he⟩)
  | t7 es he => exact .inr (.inr ⟨es, he⟩)

/-! ### The answer (R123) -/

/-- `s` after the answer `a` to `call`, the log's entry `k`, has ended its SEND (T5, T6). -/
def State.answeredAt (s : State) (k : Nat) (call : TxCall) (a : TxAnswer) : State :=
  respond { s.popped with cur := call.channel, txLog := s.txLog.set k { call with answer := some a } } (answerResponse a)

section answeredAt
variable (s : State) (k : Nat) (call : TxCall) (a : TxAnswer)

@[simp] theorem State.answeredAt_port_same : (s.answeredAt k call a).port call.channel =
    { chan := Channel.reset, waiting := (s.port call.channel).waiting,
      responses := (s.port call.channel).responses ++ [answerResponse a] } := respond_mk_port _ _ _ _ _ _
@[simp] theorem State.answeredAt_port_other (c : Nat) (h : c ≠ call.channel) :
    (s.answeredAt k call a).port c = s.port c := respond_port_other _ _ c h
@[simp] theorem State.answeredAt_txLog :
    (s.answeredAt k call a).txLog = s.txLog.set k { call with answer := some a } := rfl
@[simp] theorem State.answeredAt_refusalMark : (s.answeredAt k call a).refusalMark = s.refusalMark := rfl
@[simp] theorem State.answeredAt_inputs : (s.answeredAt k call a).inputs = s.inputs.tail := rfl

end answeredAt

/-- The answer to the call its channel waits for ends the SEND. -/
theorem step_answers {s : State} {k : Nat} {a : TxAnswer} {call : TxCall} {es : List Event}
    (he : s.inputs = .answer k a :: es) (hcall : s.txLog[k]? = some call)
    (hphase : (s.port call.channel).chan.phase = .waitTx k) : step s = .next (s.answeredAt k call a) := by
  rw [step_event s _ es he, ← State.popped_of_cons he, applyEvent, answerCall]
  simp only [State.popped_txLog, hcall, State.popped_port, hphase, if_true, finishSend_eq, State.answeredAt]

/-- Settles O28: the answer's response ends the transaction, and the answer is recorded. -/
theorem answerEndsSendUnchanged : Obligations.AnswerEndsSendUnchanged := by
  unfold Obligations.AnswerEndsSendUnchanged
  intro s k a call es he hcall hphase
  refine ⟨_, step_answers he hcall hphase, ?_, ?_, ?_, rfl, fun c hc => State.answeredAt_port_other s k call a c hc⟩
  · rw [State.answeredAt_port_same, Channel.reset]
  · rintro rfl
    rw [State.answeredAt_port_same, answerResponse]
  · rintro e rfl
    rw [State.answeredAt_port_same, answerResponse]
    exact ⟨rfl, rfl⟩

/-! ### A whole SEND (R120) -/

/-- An accepted SEND waiting first at an IDLE channel that is let go twice is handed over, and nothing else changes but the
events. -/
theorem run_send (dst src : HardwareAddress) (proto : ProtocolId) {p : Bytes} {s : State} {c : Nat} {es : List Event}
    {ds : List Bytes} (hp : p.length ≤ maxPayload) (hchan : (s.port c).chan = Channel.reset)
    (hwait : (s.port c).waiting = encode (.send dst src proto p) :: ds) (he : s.inputs = .go c :: .go c :: es) :
    ∃ t : State, (∀ k, Sys2Proof.core.run (k + 2) s = Sys2Proof.core.run k t) ∧
      t.port c = { chan := { phase := .waitTx s.txLog.length, latch := some (.send dst src proto p), fbuf := [],
                             crcAcc := none },
                   waiting := ds, responses := (s.port c).responses } ∧
      t.txLog = s.txLog ++ [{ channel := c, frame := frameOf dst src proto p, answer := none }] ∧
      t.refusalMark = s.refusalMark ∧ t.inputs = es ∧ ∀ c', c' ≠ c → t.port c' = s.port c' := by
  have hdecode : decode (encode (.send dst src proto p)) = .ok (.send dst src proto p) :=
    decode_encode (decide_eq_true (hp.trans (by decide)))
  have haccept := step_accepts (.inl ⟨_, he⟩) (by rw [hchan]; rfl) hwait hdecode
  have hrun := step_acceptedAt he (.send dst src proto p) ds
  rw [exec_send_accepted hp] at hrun
  exact ⟨_, fun k => (run_succ haccept (k + 1)).trans (run_succ hrun k), by simp [Channel.accepted], rfl, rfl, rfl,
    fun c' hc => by simp [hc]⟩

/-- The answer to the log's last call is recorded in that call's entry. -/
theorem set_length_append_singleton (log : List TxCall) (call call' : TxCall) :
    (log ++ [call]).set log.length call' = log ++ [call'] := by
  rw [List.set_append_right _ _ (Nat.le_refl _), Nat.sub_self, List.set_cons_zero]

/-- Settles O46: the descriptor is presented, `run_send` hands its frame over, and `step_answers` ends it. -/
theorem sendTransactionRuns : Obligations.SendTransactionRuns := by
  unfold Obligations.SendTransactionRuns
  intro dst src proto p a s c es hp hchan hwait he
  have hpresent : step s = .next (presentRequest s.popped c (encode (.send dst src proto p))) := by
    rw [step_event s _ _ he, ← State.popped_of_cons he, applyEvent]
  obtain ⟨u, hrun, hport, hlog, hmark, hinputs, hother⟩ := run_send dst src proto (es := .answer s.txLog.length a :: es)
    (s := presentRequest s.popped c (encode (.send dst src proto p))) (c := c) (ds := []) hp
    (by rw [presentRequest_port_same, State.popped_port, hchan])
    (by rw [presentRequest_port_same, State.popped_port, hwait, List.nil_append])
    (by rw [presentRequest_inputs, State.popped_inputs, he, List.tail_cons])
  have hanswer : step u = .next (u.answeredAt s.txLog.length ⟨c, frameOf dst src proto p, none⟩ a) := by
    refine step_answers hinputs ?_ ?_
    · rw [hlog]
      exact List.getElem?_concat_length
    · rw [hport]
      rfl
  refine ⟨_, (run_succ hpresent 3).trans ((hrun 1).trans (run_succ hanswer 0)), ?_, ?_, ?_, hmark, fun c' hc => ?_⟩
  · rw [State.answeredAt_port_same u _ ⟨c, _, none⟩ a, hport, presentRequest_port_same, State.popped_port]
  · rw [State.answeredAt_txLog, hlog]
    exact set_length_append_singleton _ _ _
  · rw [State.answeredAt_inputs, hinputs, List.tail_cons]
  · rw [State.answeredAt_port_other _ _ _ _ _ hc, hother c' hc, presentRequest_port_other _ _ _ _ hc, State.popped_port]

end Sys2Proof.Machine
end

/-! ## One outcome per transaction, a block's channels, and a finished run (R145, R154, R156) -/

section
namespace Sys2Proof.Machine

/-- R80: a BUILD's response is the error of an oversize payload, or a frame. -/
theorem buildResponse_oversize_or_frame (dst src : HardwareAddress) (proto : ProtocolId) (p : Bytes) :
    buildResponse dst src proto p = .error .oversizePayload ∨ ∃ f, buildResponse dst src proto p = .frame f := by
  obtain hp | hp := Nat.lt_or_ge maxPayload p.length
  · exact .inl (buildResponse_oversize hp dst src proto)
  · exact .inr ⟨_, buildResponse_accepted hp dst src proto⟩

/-- Settles O32: of R25's rows, T2, T3, T5 and T6 respond, each once and each ending the transaction; the others are silent. -/
theorem oneOutcomePerTransaction : Obligations.OneOutcomePerTransaction := by
  unfold Obligations.OneOutcomePerTransaction
  intro s t h c
  cases channelMove_of_stepCase (step_cases h) c with
  | hold _ hresponses => exact .inl hresponses
  | t1 _ _ _ _ _ _ ht => exact .inl (by rw [ht])
  | t2 dst src proto p hphase hlatch ht =>
    exact .inr ⟨_, congrArg Port.responses ht, congrArg Port.chan ht,
      .inl ⟨hphase, .inl ⟨dst, src, proto, p, hlatch, buildResponse_oversize_or_frame dst src proto p⟩⟩⟩
  | t3 dst src proto p hphase hlatch _ ht =>
    exact .inr ⟨_, congrArg Port.responses ht, congrArg Port.chan ht,
      .inl ⟨hphase, .inr ⟨dst, src, proto, p, hlatch, rfl⟩⟩⟩
  | t4 _ _ _ _ _ _ _ ht => exact .inl (by rw [ht])
  | t5 k _ _ _ hphase _ _ ht =>
    exact .inr ⟨_, congrArg Port.responses ht, congrArg Port.chan ht, .inr ⟨k, hphase, .inl rfl⟩⟩
  | t6 k _ e _ _ hphase _ _ ht =>
    exact .inr ⟨_, congrArg Port.responses ht, congrArg Port.chan ht, .inr ⟨k, hphase, .inr ⟨e, rfl⟩⟩⟩
  | t7 _ _ ht => exact .inl (by rw [ht])

/-! ### A block with `n` channels (R154, log 2) -/

section withinChannels
variable {n : Nat} {s : State}

theorem State.withinChannels.popped (hs : s.withinChannels n) : s.popped.withinChannels n :=
  ⟨hs.ports, hs.cur, hs.calls, fun e he => hs.events e (List.mem_of_mem_tail he)⟩

theorem State.withinChannels.withCur (hs : s.withinChannels n) {c : Nat} (hc : c < n) :
    State.withinChannels n { s with cur := c } :=
  ⟨hs.ports, hc, hs.calls, hs.events⟩

theorem State.withinChannels.withTxLog (hs : s.withinChannels n) {log : List TxCall} (hlog : ∀ call ∈ log, call.channel < n) :
    State.withinChannels n { s with txLog := log } :=
  ⟨hs.ports, hs.cur, hlog, hs.events⟩

theorem State.withinChannels.setPort (hs : s.withinChannels n) {c : Nat} (hc : c < n) (p : Port) :
    (s.setPort c p).withinChannels n :=
  ⟨(length_setPortAt s.ports c p).trans_le (max_le hs.ports hc), hs.cur, hs.calls, hs.events⟩

theorem respond_keeps_withinChannels (hs : s.withinChannels n) (r : Response) : (respond s r).withinChannels n :=
  hs.setPort hs.cur _

theorem transmit_keeps_withinChannels (hs : s.withinChannels n) (f : Bytes) : (transmit s f).withinChannels n :=
  (hs.setPort hs.cur _).withTxLog (List.forall_mem_append.2 ⟨hs.calls, List.forall_mem_singleton.2 hs.cur⟩)

theorem exec_keeps_withinChannels {i : Instr} {t : State} (hs : s.withinChannels n) (h : exec i s = .next t) :
    t.withinChannels n := by
  obtain ⟨_, _, _, _, -, rfl⟩ | ⟨_, _, _, _, -, -, rfl⟩ | ⟨_, _, _, _, -, -, rfl⟩ := exec_cases h
  · exact respond_keeps_withinChannels hs _
  · exact respond_keeps_withinChannels hs _
  · exact transmit_keeps_withinChannels hs _

theorem resetBlock_keeps_withinChannels (hs : s.withinChannels n) : (resetBlock s).withinChannels n :=
  ⟨(List.length_map _).trans_le hs.ports, hs.cur, hs.calls, hs.events⟩

/-- A ready channel has a port in the list: past its end every port is an unused one. -/
theorem lt_length_of_ready {c : Nat} (h : (s.port c).ready = true) : c < s.ports.length := by
  by_contra hc
  have hunused : s.port c = Port.reset := portAt_of_length_le _ _ (Nat.not_lt.1 hc)
  rw [hunused] at h
  exact absurd h (by decide)

/-- The channel that moves next is one of the block's, let go by an event or ready by itself. -/
theorem State.withinChannels.lt_of_movesOf (hs : s.withinChannels n) {c : Nat} (hm : s.movesOf c) : c < n := by
  obtain ⟨es, he⟩ | ⟨-, hready, -⟩ := hm
  · exact hs.events (.go c) (he ▸ List.mem_cons_self)
  · exact (lt_length_of_ready hready).trans_le hs.ports

end withinChannels

/-- Settles O39: every case of a step writes at most one port, of a channel that an event, a call or the port list names. -/
theorem stepKeepsChannelCount : Obligations.StepKeepsChannelCount := by
  unfold Obligations.StepKeepsChannelCount
  intro n s t hs h
  cases step_cases h with
  | hold _ _ ht => exact ht ▸ hs.popped
  | present c d es he ht =>
    have hc : c < n := hs.events (.present c d) (he ▸ List.mem_cons_self)
    exact ht ▸ hs.popped.setPort hc _
  | accept c d ds i hm hphase hwait hdecode ht => exact ht ▸ hs.popped.setPort (hs.lt_of_movesOf hm) _
  | refuse c d ds hm hphase hwait ht =>
    obtain ⟨hports, hcur, hcalls, hevents⟩ :=
      hs.popped.setPort (hs.lt_of_movesOf hm) { s.port c with waiting := ds }
    exact ht ▸ ⟨hports, hcur, hcalls, hevents⟩
  | run c i hm hphase hlatch ht => exact exec_keeps_withinChannels (hs.popped.withCur (hs.lt_of_movesOf hm)) ht
  | answered k a call es he hcall hphase ht =>
    have hc : call.channel < n := hs.calls call (List.mem_of_getElem? hcall)
    have hlog : ∀ call' ∈ s.txLog.set k { call with answer := some a }, call'.channel < n := by
      intro call' hmem
      obtain hmem | rfl := List.mem_or_eq_of_mem_set hmem
      · exact hs.calls call' hmem
      · exact hc
    exact ht ▸ respond_keeps_withinChannels ((hs.popped.withCur hc).withTxLog hlog) _
  | reset es he ht => exact ht ▸ resetBlock_keeps_withinChannels hs.popped

/-! ### A run that is over (R156, 92 D15) -/

theorem runOver_iff (s : State) :
    s.runOver = true ↔ s.inputs = [] ∧ ∀ p ∈ s.ports, p.chan.phase = .idle ∧ p.waiting = [] := by
  simp [State.runOver]

theorem not_ready_of_idle {p : Port} (hphase : p.chan.phase = .idle) (hwait : p.waiting = []) : p.ready = false := by
  simp [Port.ready, hphase, hwait]

/-- Where no listed port is ready, no channel is chosen to move. -/
theorem firstReady_eq_none {ps : List Port} (h : ∀ p ∈ ps, p.ready = false) (b : Nat) : firstReady ps b = none := by
  induction ps generalizing b with
  | nil => rfl
  | cons p ps ih =>
    obtain ⟨hp, hps⟩ := List.forall_mem_cons.1 h
    rw [firstReady, hp]
    exact ih hps (b + 1)

/-- Settles O44: with nothing scripted and no port ready, the block's own step holds. -/
theorem finishedRunHolds : Obligations.FinishedRunHolds := by
  unfold Obligations.FinishedRunHolds
  intro s hover
  obtain ⟨hinputs, hports⟩ := (runOver_iff s).1 hover
  have hready : ∀ p ∈ s.ports, p.ready = false := fun p hp =>
    have ⟨hphase, hwait⟩ := hports p hp
    not_ready_of_idle hphase hwait
  rw [step_own s hinputs, ownStep, firstReady_eq_none hready]

end Sys2Proof.Machine
end

/-! ## Reset and hazards: abandoned calls, a placed word, bounded progress (70_reset_and_hazards.md) -/

section
namespace Sys2Proof.Machine

/-! ### Reset and the calls it abandons (R160) -/

/-- An answer to a call that its channel does not wait for is dropped. -/
theorem answerCall_dropped {s : State} {k : Nat} {call : TxCall} (a : TxAnswer) (hcall : s.txLog[k]? = some call)
    (hphase : (s.port call.channel).chan.phase ≠ .waitTx k) : answerCall s k a = .next s := by
  simp only [answerCall, hcall, hphase, if_false]

/-- Settles O33: reset leaves no channel waiting, so every call already made has its answer dropped. -/
theorem resetAbandonsTransactions : Obligations.ResetAbandonsTransactions := by
  unfold Obligations.ResetAbandonsTransactions
  intro s es he
  have hchan (c : Nat) : ((resetBlock { s with inputs := es }).port c).chan = Channel.reset := by
    rw [resetBlock_port, resetPort]
  refine ⟨resetBlock { s with inputs := es }, step_event s _ es he, rfl, rfl, fun c => ⟨hchan c, ?_⟩, fun k a hk => ?_⟩
  · rw [resetBlock_port]
    rfl
  · refine answerCall_dropped a (List.getElem?_eq_getElem hk) ?_
    rw [hchan]
    simp [Channel.reset]

/-- Settles O29. -/
theorem lateAnswerDropped : Obligations.LateAnswerDropped := by
  unfold Obligations.LateAnswerDropped
  intro s k a call es he hcall hphase
  rw [step_event s _ es he, applyEvent]
  exact answerCall_dropped a hcall hphase

/-- A channel waits after a step for the call it waited for before, or for the one that the step has just made (T4). -/
theorem waitTx_before_or_new {s t : State} {c k : Nat} (h : step s = .next t)
    (hphase : (t.port c).chan.phase = .waitTx k) :
    (s.port c).chan.phase = .waitTx k ∨ k = s.txLog.length := by
  cases channelMove_of_stepCase (step_cases h) c with
  | hold hchan _ => exact .inl (hchan ▸ hphase)
  | t1 _ _ _ _ _ _ ht => simp [ht] at hphase
  | t2 _ _ _ _ _ _ ht => simp [ht, Channel.reset] at hphase
  | t3 _ _ _ _ _ _ _ ht => simp [ht, Channel.reset] at hphase
  | t4 _ _ _ _ _ _ _ ht =>
    rw [ht] at hphase
    injection hphase with hk
    exact .inr hk.symm
  | t5 _ _ _ _ _ _ _ ht => simp [ht, Channel.reset] at hphase
  | t6 _ _ _ _ _ _ _ _ ht => simp [ht, Channel.reset] at hphase
  | t7 _ _ ht => simp [ht, Channel.reset] at hphase

theorem step_length_txLog_le {s t : State} (h : step s = .next t) : s.txLog.length ≤ t.txLog.length := by
  obtain ⟨-, hcalls⟩ := oneCallPerSend
  obtain hkept | ⟨c, dst, src, proto, p, -, -, -, hlog, -⟩ := hcalls s t h
  · exact hkept.ge
  · simp [hlog]

/-- Settles O48: a call starts to be waited for only when it is made, and then its number is the log's length. -/
theorem abandonedCallStaysAbandoned : Obligations.AbandonedCallStaysAbandoned := by
  unfold Obligations.AbandonedCallStaysAbandoned
  intro s t k h hk habandoned
  refine ⟨hk.trans_le (step_length_txLog_le h), fun c hphase => ?_⟩
  obtain hbefore | hnew := waitTx_before_or_new h hphase
  · exact habandoned c hbefore
  · exact hk.ne hnew

/-! ### A placed word (R161, log 16) -/

theorem decode_of_decodeTableWord {nbits w : Nat} {i : Instr} (h : decodeTableWord nbits w = some i) :
    decode (layoutWord nbits w) = .ok i := by
  unfold decodeTableWord at h
  cases hdecode : decode (layoutWord nbits w) with
  | ok j =>
    rw [hdecode] at h
    exact congrArg Except.ok (Option.some.inj h)
  | error r => simp [hdecode] at h

/-- `s` with channel 0 at its reset values, `d` waiting first there and two moves of the channel scripted next. -/
def State.waitingFirst (s : State) (d : Bytes) : State :=
  { s.setPort 0 { s.port 0 with chan := Channel.reset, waiting := d :: (s.port 0).waiting } with
    inputs := .go 0 :: .go 0 :: s.inputs }

@[simp] theorem State.waitingFirst_port_zero (s : State) (d : Bytes) : (s.waitingFirst d).port 0 =
    { chan := Channel.reset, waiting := d :: (s.port 0).waiting, responses := (s.port 0).responses } :=
  State.port_setPort_same s 0 _
@[simp] theorem State.waitingFirst_port_other (s : State) (d : Bytes) (c : Nat) (h : c ≠ 0) :
    (s.waitingFirst d).port c = s.port c := State.port_setPort_other s 0 c _ h

/-- Placing a well-formed descriptor is the first of two scripted moves of channel 0: the one that accepts it. -/
theorem placeRequest_eq_acceptedAt {d : Bytes} {i : Instr} (h : decode d = .ok i) (s : State) :
    placeRequest s d = (s.waitingFirst d).acceptedAt 0 i (s.port 0).waiting := by
  simp only [placeRequest, takeUp, State.port_setPort_same, h]
  rw [State.acceptedAt, State.waitingFirst_port_zero]
  rfl

/-- Settles O25: the placement is an acceptance, so the scripted move after it runs the request. -/
theorem placedWordRuns : Obligations.PlacedWordRuns := by
  unfold Obligations.PlacedWordRuns
  intro s nbits w i hword
  rw [State.withFetchWord, placeRequest_eq_acceptedAt (decode_of_decodeTableWord hword)]
  refine ⟨_, step_acceptedAt rfl i _, rfl, rfl, rfl, rfl, ?_, fun c hc => ?_⟩
  · rw [State.port_mk, State.portAt_ports, State.acceptedAt_port_same, State.waitingFirst_port_zero, Channel.accepted]
  · rw [State.port_mk, State.portAt_ports, State.acceptedAt_port_other _ _ _ _ _ hc, State.waitingFirst_port_other _ _ _ hc]

/-! ### Bounded progress of the block's own moves (R168) -/

/-- The moves that one port's channel still makes on its own: its share of `workOf`. -/
def Port.work (p : Port) : Nat := 2 * p.waiting.length + p.chan.phase.work

theorem workOf_cons (p : Port) (ps : List Port) : workOf (p :: ps) = p.work + workOf ps := rfl

/-- Replacing a port replaces its share of the work. -/
theorem workOf_setPortAt (ps : List Port) (c : Nat) (p : Port) :
    workOf (setPortAt ps c p) + (portAt ps c).work = workOf ps + p.work := by
  have hunused : Port.reset.work = 0 := rfl
  induction ps, c, p using setPortAt.induct with
  | case1 p => simp [setPortAt, workOf_cons, workOf, hunused]
  | case2 c p ih => simpa [setPortAt, workOf_cons, hunused] using ih
  | case3 q ps p =>
    simp only [setPortAt, portAt, workOf_cons]
    omega
  | case4 q ps c p ih =>
    simp only [setPortAt, portAt, workOf_cons]
    omega

theorem workOf_setPort_lt {s : State} {c : Nat} {p : Port} (h : p.work < (s.port c).work) :
    workOf (s.setPort c p).ports < workOf s.ports := by
  have hshare := workOf_setPortAt s.ports c p
  rw [State.portAt_ports] at hshare
  rw [State.setPort_ports]
  omega

theorem Port.work_lt_of_busy {p q : Port} (hphase : p.chan.phase = .busy) (hwait : q.waiting = p.waiting)
    (hq : q.chan.phase.work = 0) : q.work < p.work := by
  rw [Port.work, Port.work, hphase, hwait, hq, Phase.work]
  omega

/-- A BUSY channel's own step does one move of the block's work. -/
theorem exec_cuts_work {i : Instr} {s t : State} (hphase : (s.port s.cur).chan.phase = .busy) (h : exec i s = .next t) :
    workOf t.ports < workOf s.ports := by
  obtain ⟨_, _, _, _, -, rfl⟩ | ⟨_, _, _, _, -, -, rfl⟩ | ⟨_, _, _, _, -, -, rfl⟩ := exec_cases h
  · rw [respond_eq_setPort]
    exact workOf_setPort_lt (Port.work_lt_of_busy hphase rfl rfl)
  · rw [respond_eq_setPort]
    exact workOf_setPort_lt (Port.work_lt_of_busy hphase rfl rfl)
  · rw [transmit_eq_setPort]
    exact workOf_setPort_lt (Port.work_lt_of_busy hphase rfl rfl)

/-- Taking up a request, accepted or refused, does at least one of the two moves that it is counted for. -/
theorem takeUp_cuts_work {s : State} {c : Nat} (hphase : (s.port c).chan.phase = .idle) (hwait : (s.port c).waiting ≠ []) :
    workOf (takeUp s c).ports < workOf s.ports := by
  obtain ⟨hnone, -⟩ | ⟨d, ds, i, hds, -, ht⟩ | ⟨d, ds, r, hds, -, ht⟩ := takeUp_cases s c
  · exact absurd hnone hwait
  · rw [ht]
    refine workOf_setPort_lt ?_
    simp only [Port.work, hds, hphase, List.length_cons, Channel.accepted, Phase.work]
    omega
  · rw [ht]
    refine workOf_setPort_lt ?_
    simp only [Port.work, hds, hphase, List.length_cons]
    omega

theorem ready_iff (p : Port) :
    p.ready = true ↔ p.chan.phase = .busy ∨ p.chan.phase = .idle ∧ p.waiting ≠ [] := by
  cases hphase : p.chan.phase <;> simp [Port.ready, hphase]

/-- The move of a ready channel cuts the block's work. -/
theorem goChannel_cuts_work {s t : State} {c : Nat} (hready : (s.port c).ready = true) (h : goChannel s c = .next t) :
    workOf t.ports < workOf s.ports := by
  obtain hphase | ⟨hphase, hwait⟩ := (ready_iff _).1 hready
  · cases hlatch : (s.port c).chan.latch with
    | none =>
      rw [goChannel_latchEmpty hphase hlatch] at h
      cases h
    | some i =>
      rw [goChannel_busy hphase hlatch] at h
      exact exec_cuts_work (s := { s with cur := c }) hphase h
  · rw [goChannel_idle s c hphase] at h
    injection h with h
    exact h ▸ takeUp_cuts_work hphase hwait

/-- A step consumes the next event and scripts none. -/
theorem step_inputs {s t : State} (h : step s = .next t) : t.inputs = s.inputs.tail := by
  cases step_cases h with
  | hold _ _ ht => rw [ht, State.popped_inputs]
  | present c d es he ht => rw [ht, presentRequest_inputs, State.popped_inputs]
  | accept c d ds i hm hphase hwait hdecode ht => rw [ht, State.acceptedAt_inputs]
  | refuse c d ds hm hphase hwait ht => rw [ht, State.setPort_inputs, State.popped_inputs]
  | run c i hm hphase hlatch ht =>
    obtain ⟨hinputs, -⟩ := exec_inputs_and_cur ht
    exact hinputs
  | answered k a call es he hcall hphase ht => rw [ht, respond_inputs, State.popped_inputs]
  | reset es he ht => rw [ht, resetBlock_inputs, State.popped_inputs]

/-- With nothing scripted, either no channel is ready or the block's own step goes on and cuts its work. -/
theorem none_ready_or_step_cuts_work {s : State} (hs : s.Inv) (he : s.inputs = []) :
    (∀ c, (s.port c).ready = false) ∨ ∃ t, step s = .next t ∧ workOf t.ports < workOf s.ports := by
  obtain ⟨c, ⟨es, hgo⟩ | ⟨-, hready, -⟩, hown⟩ | ⟨hnone, -⟩ := ownStep_cases he
  · simp [he] at hgo
  · obtain ⟨t, ht⟩ := goChannel_completes (hs.channels c)
    exact .inr ⟨t, by rw [step_own s he, hown, ht], goChannel_cuts_work hready ht⟩
  · exact .inl hnone

/-- Settles O43, by induction on the work: it falls with every own step until no channel is ready. -/
theorem ownStepsFinish : Obligations.OwnStepsFinish := by
  unfold Obligations.OwnStepsFinish
  intro s
  induction hn : workOf s.ports using Nat.strong_induction_on generalizing s with
  | _ n ih =>
    intro hs he
    obtain hnone | ⟨u, hstep, hcut⟩ := none_ready_or_step_cuts_work hs he
    · refine ⟨0, s, Nat.zero_le _, rfl, he, fun c => ?_⟩
      have hidle := (ready_iff (s.port c)).not.1 (by simp [hnone c])
      exact ⟨fun hphase => hidle (.inl hphase), fun hphase => not_not.1 fun hwait => hidle (.inr ⟨hphase, hwait⟩)⟩
    · have hinputs : u.inputs = [] := by rw [step_inputs hstep, he, List.tail_nil]
      obtain ⟨k, t, hk, hrun, hdone⟩ := ih _ (hn ▸ hcut) u rfl (stepKeepsInvariant s u hs hstep) hinputs
      exact ⟨k + 1, t, by omega, (run_succ hstep k).trans hrun, hdone⟩

end Sys2Proof.Machine
end
